-- ==== Sys2Proof/Word.lean ====
section
/-! DEFINITION. The words of the machine: the bit vectors the spec treats as bits, and register numbers. -/

namespace Sys2Proof

/-- An 8-bit value: a general register, a timer, a byte of memory (10_state.md R20). -/
abbrev Byte := BitVec 8

/-- A 16-bit value: an instruction word, `pc`, `I`, a call-stack entry (10_state.md R20). -/
abbrev Word := BitVec 16

/-- The 12-bit operand `addr` (30_encoding.md R71). -/
abbrev Addr := BitVec 12

/-- A 4-bit field of an instruction word: `op`, `x`, `y` or `n` (30_encoding.md R71). -/
abbrev Nibble := BitVec 4

/-- The number of a general register, 0 to 15 (10_state.md R21). -/
abbrev Reg := Fin 16

end Sys2Proof
end

