-- ==== Sys2Proof/Syntax.lean ====
section
/-! DEFINITION. The 35 instructions (30_encoding.md R74), one constructor a row of the opcode table. -/

namespace Sys2Proof

/-- An instruction with its operands. `x` and `y` number registers, `kk` is a byte immediate, `n` a sprite's
row count, `addr` a 12-bit operand (30_encoding.md R71, R73). Constructors stand in the table's order. -/
inductive Instr where
  /-- `00E0` CLS (R100) -/
  | cls
  /-- `00EE` RET (R101) -/
  | ret
  /-- `0nnn` SYS addr, every `0nnn` but `00E0` and `00EE` (R102) -/
  | sys (addr : Addr)
  /-- `1nnn` JP addr (R103) -/
  | jp (addr : Addr)
  /-- `2nnn` CALL addr (R104) -/
  | call (addr : Addr)
  /-- `3xkk` SE Vx, kk (R110) -/
  | seImm (x : Reg) (kk : Byte)
  /-- `4xkk` SNE Vx, kk (R111) -/
  | sneImm (x : Reg) (kk : Byte)
  /-- `5xy0` SE Vx, Vy (R112) -/
  | seReg (x y : Reg)
  /-- `6xkk` LD Vx, kk (R120) -/
  | ldImm (x : Reg) (kk : Byte)
  /-- `7xkk` ADD Vx, kk (R121) -/
  | addImm (x : Reg) (kk : Byte)
  /-- `8xy0` LD Vx, Vy (R130) -/
  | ldReg (x y : Reg)
  /-- `8xy1` OR Vx, Vy (R131) -/
  | orReg (x y : Reg)
  /-- `8xy2` AND Vx, Vy (R132) -/
  | andReg (x y : Reg)
  /-- `8xy3` XOR Vx, Vy (R133) -/
  | xorReg (x y : Reg)
  /-- `8xy4` ADD Vx, Vy (R134) -/
  | addReg (x y : Reg)
  /-- `8xy5` SUB Vx, Vy (R135) -/
  | subReg (x y : Reg)
  /-- `8xy6` SHR Vx, Vy (R136) -/
  | shr (x y : Reg)
  /-- `8xy7` SUBN Vx, Vy (R137) -/
  | subn (x y : Reg)
  /-- `8xyE` SHL Vx; `y` is decoded and ignored (R138) -/
  | shl (x y : Reg)
  /-- `9xy0` SNE Vx, Vy (R113) -/
  | sneReg (x y : Reg)
  /-- `Annn` LD I, addr (R141) -/
  | ldI (addr : Addr)
  /-- `Bnnn` JP V0, addr (R142) -/
  | jpV0 (addr : Addr)
  /-- `Cxkk` RND Vx, kk (R143) -/
  | rnd (x : Reg) (kk : Byte)
  /-- `Dxyn` DRW Vx, Vy, n (R150) -/
  | drw (x y : Reg) (n : Nibble)
  /-- `Ex9E` SKP Vx (R160) -/
  | skp (x : Reg)
  /-- `ExA1` SKNP Vx (R161) -/
  | sknp (x : Reg)
  /-- `Fx07` LD Vx, DT (R170) -/
  | ldVxDT (x : Reg)
  /-- `Fx0A` LD Vx, K (R173) -/
  | ldVxK (x : Reg)
  /-- `Fx15` LD DT, Vx (R171) -/
  | ldDT (x : Reg)
  /-- `Fx18` LD ST, Vx (R172) -/
  | ldST (x : Reg)
  /-- `Fx1E` ADD I, Vx (R174) -/
  | addI (x : Reg)
  /-- `Fx29` LD F, Vx (R175) -/
  | ldF (x : Reg)
  /-- `Fx33` LD B, Vx (R180) -/
  | ldB (x : Reg)
  /-- `Fx55` LD [I], Vx: stores registers 0 to `x` (R181) -/
  | storeRegs (x : Reg)
  /-- `Fx65` LD Vx, [I]: loads registers 0 to `x` (R182) -/
  | loadRegs (x : Reg)
  deriving DecidableEq, Repr

end Sys2Proof
end

