-- ==== Sys2Proof/WellFormed.lean ====
section
/-! DEFINITION. Which terms of Instr stand for a word. The operands' types bound every field; the one check
left is that `SYS addr` does not spell the words of `CLS` and `RET` (30_encoding.md R75). -/

namespace Sys2Proof

/-- The check: `0nnn` is `SYS` for every operand except `0x0E0` (CLS) and `0x0EE` (RET) (30_encoding.md R75). -/
def Instr.wellFormed : Instr → Bool
  | .sys addr => addr != 0x0E0#12 && addr != 0x0EE#12
  | .cls | .ret | .jp _ | .call _ => true
  | .seImm _ _ | .sneImm _ _ | .seReg _ _ | .sneReg _ _ => true
  | .ldImm _ _ | .addImm _ _ => true
  | .ldReg _ _ | .orReg _ _ | .andReg _ _ | .xorReg _ _ | .addReg _ _ | .subReg _ _ => true
  | .shr _ _ | .subn _ _ | .shl _ _ => true
  | .ldI _ | .jpV0 _ | .rnd _ _ | .drw _ _ _ => true
  | .skp _ | .sknp _ => true
  | .ldVxDT _ | .ldVxK _ | .ldDT _ | .ldST _ | .addI _ | .ldF _ => true
  | .ldB _ | .storeRegs _ | .loadRegs _ => true

/-- `i` is the instruction of some word. -/
abbrev Instr.WellFormed (i : Instr) : Prop := i.wellFormed = true

end Sys2Proof
end

