-- ==== Sys2Proof/Decode.lean ====
section
/-! DEFINITION. Decoding (30_encoding.md R70 to R79): the field views of a word, the dispatch to the 35
instructions, rejection by name; then the encoder, from the same table. -/

namespace Sys2Proof

/-- The six overlapping field views of a word (30_encoding.md R71). -/
structure Fields where
  op : Nibble
  x : Reg
  y : Reg
  n : Nibble
  kk : Byte
  addr : Addr
  deriving DecidableEq, Repr

/-- The spec's `decode(word)`: the six fields and nothing else (30_encoding.md R72). -/
def fieldsOf (w : Word) : Fields where
  op := w.extractLsb' 12 4
  x := (w.extractLsb' 8 4).toFin
  y := (w.extractLsb' 4 4).toFin
  n := w.extractLsb' 0 4
  kk := w.extractLsb' 0 8
  addr := w.extractLsb' 0 12

/-- Why bytes are not an instruction. -/
inductive Reject where
  /-- the word matches no row of the opcode table (30_encoding.md R77) -/
  | illegal (op : Nibble) (addr : Addr)
  /-- fewer than the two bytes of a word (30_encoding.md R70) -/
  | truncated
  deriving DecidableEq, Repr

/-- Family 0, selected by the whole operand (30_encoding.md R75): `CLS`, `RET`, else `SYS`. -/
def decodeSystem (f : Fields) : Instr :=
  if f.addr = 0x0E0#12 then .cls
  else if f.addr = 0x0EE#12 then .ret
  else .sys f.addr

/-- Family 8, selected by `n` (30_encoding.md R75, R76). -/
def decodeAlu (f : Fields) : Option Instr :=
  match f.n.toNat with
  | 0x0 => some (.ldReg f.x f.y)
  | 0x1 => some (.orReg f.x f.y)
  | 0x2 => some (.andReg f.x f.y)
  | 0x3 => some (.xorReg f.x f.y)
  | 0x4 => some (.addReg f.x f.y)
  | 0x5 => some (.subReg f.x f.y)
  | 0x6 => some (.shr f.x f.y)
  | 0x7 => some (.subn f.x f.y)
  | 0xE => some (.shl f.x f.y)
  | _ => none

/-- Family E, selected by `kk` (30_encoding.md R75). -/
def decodeKey (f : Fields) : Option Instr :=
  match f.kk.toNat with
  | 0x9E => some (.skp f.x)
  | 0xA1 => some (.sknp f.x)
  | _ => none

/-- Family F, selected by `kk` (30_encoding.md R75). -/
def decodeMisc (f : Fields) : Option Instr :=
  match f.kk.toNat with
  | 0x07 => some (.ldVxDT f.x)
  | 0x0A => some (.ldVxK f.x)
  | 0x15 => some (.ldDT f.x)
  | 0x18 => some (.ldST f.x)
  | 0x1E => some (.addI f.x)
  | 0x29 => some (.ldF f.x)
  | 0x33 => some (.ldB f.x)
  | 0x55 => some (.storeRegs f.x)
  | 0x65 => some (.loadRegs f.x)
  | _ => none

/-- The dispatch on the opcode family (30_encoding.md R74, R75). Families 5 and 9 take `n = 0` only (R77). -/
def dispatch (f : Fields) : Option Instr :=
  match f.op.toNat with
  | 0x0 => some (decodeSystem f)
  | 0x1 => some (.jp f.addr)
  | 0x2 => some (.call f.addr)
  | 0x3 => some (.seImm f.x f.kk)
  | 0x4 => some (.sneImm f.x f.kk)
  | 0x5 => if f.n = 0#4 then some (.seReg f.x f.y) else none
  | 0x6 => some (.ldImm f.x f.kk)
  | 0x7 => some (.addImm f.x f.kk)
  | 0x8 => decodeAlu f
  | 0x9 => if f.n = 0#4 then some (.sneReg f.x f.y) else none
  | 0xA => some (.ldI f.addr)
  | 0xB => some (.jpV0 f.addr)
  | 0xC => some (.rnd f.x f.kk)
  | 0xD => some (.drw f.x f.y f.n)
  | 0xE => decodeKey f
  | _ => decodeMisc f

/-- The instruction of a word, or its rejection with the fields a `DecodeFault` records (30_encoding.md R77).
Decoding depends on the word's 16 bits alone (R79). -/
def decodeWord (w : Word) : Except Reject Instr :=
  match dispatch (fieldsOf w) with
  | some i => .ok i
  | none => .error (.illegal (fieldsOf w).op (fieldsOf w).addr)

/-- The big-endian word of two bytes, the one at the lower address first (20_memory.md R52). -/
def wordOfBytes (hi lo : Byte) : Word := hi ++ lo

/-- The byte of a word that stands at the lower address (20_memory.md R52). -/
def highByte (w : Word) : Byte := w.extractLsb' 8 8

/-- The byte of a word that stands at the higher address (20_memory.md R52). -/
def lowByte (w : Word) : Byte := w.extractLsb' 0 8

/-- The decoder on any bytes: the first instruction and the bytes after it (30_encoding.md R70). -/
def decodeBytes : List Byte → Except Reject (Instr × List Byte)
  | hi :: lo :: rest =>
    match decodeWord (wordOfBytes hi lo) with
    | .ok i => .ok (i, rest)
    | .error r => .error r
  | _ => .error .truncated

/-- What the decoder reads from a row's word, its bits numbered as the opcode table numbers them; the bits above
`nbits` are zero. -/
def decodeTableWord (nbits w : Nat) : Option Instr :=
  let word : Word := BitVec.ofNat 16 (w % 2 ^ nbits)
  match decodeBytes [highByte word, lowByte word] with
  | .ok (i, _) => some i
  | .error _ => none

/-! ## The encoder, from the match column and the field places of 30_encoding.md R71 and R74 -/

/-- A register number as the 4-bit field that holds it. -/
def regField (r : Reg) : Nibble := BitVec.ofFin r

/-- The format `op addr` (30_encoding.md R71). -/
def encodeAddr (op : Nibble) (addr : Addr) : Word := op ++ addr

/-- The format `op x kk` (30_encoding.md R71). -/
def encodeImm (op : Nibble) (x : Reg) (kk : Byte) : Word := op ++ (regField x ++ kk)

/-- The format `op x y n` (30_encoding.md R71). -/
def encodeRegs (op : Nibble) (x y : Reg) (n : Nibble) : Word := op ++ (regField x ++ (regField y ++ n))

/-- The word of an instruction (30_encoding.md R74). -/
def encode : Instr → Word
  | .cls => 0x00E0#16
  | .ret => 0x00EE#16
  | .sys addr => encodeAddr 0x0#4 addr
  | .jp addr => encodeAddr 0x1#4 addr
  | .call addr => encodeAddr 0x2#4 addr
  | .seImm x kk => encodeImm 0x3#4 x kk
  | .sneImm x kk => encodeImm 0x4#4 x kk
  | .seReg x y => encodeRegs 0x5#4 x y 0x0#4
  | .ldImm x kk => encodeImm 0x6#4 x kk
  | .addImm x kk => encodeImm 0x7#4 x kk
  | .ldReg x y => encodeRegs 0x8#4 x y 0x0#4
  | .orReg x y => encodeRegs 0x8#4 x y 0x1#4
  | .andReg x y => encodeRegs 0x8#4 x y 0x2#4
  | .xorReg x y => encodeRegs 0x8#4 x y 0x3#4
  | .addReg x y => encodeRegs 0x8#4 x y 0x4#4
  | .subReg x y => encodeRegs 0x8#4 x y 0x5#4
  | .shr x y => encodeRegs 0x8#4 x y 0x6#4
  | .subn x y => encodeRegs 0x8#4 x y 0x7#4
  | .shl x y => encodeRegs 0x8#4 x y 0xE#4
  | .sneReg x y => encodeRegs 0x9#4 x y 0x0#4
  | .ldI addr => encodeAddr 0xA#4 addr
  | .jpV0 addr => encodeAddr 0xB#4 addr
  | .rnd x kk => encodeImm 0xC#4 x kk
  | .drw x y n => encodeRegs 0xD#4 x y n
  | .skp x => encodeImm 0xE#4 x 0x9E#8
  | .sknp x => encodeImm 0xE#4 x 0xA1#8
  | .ldVxDT x => encodeImm 0xF#4 x 0x07#8
  | .ldVxK x => encodeImm 0xF#4 x 0x0A#8
  | .ldDT x => encodeImm 0xF#4 x 0x15#8
  | .ldST x => encodeImm 0xF#4 x 0x18#8
  | .addI x => encodeImm 0xF#4 x 0x1E#8
  | .ldF x => encodeImm 0xF#4 x 0x29#8
  | .ldB x => encodeImm 0xF#4 x 0x33#8
  | .storeRegs x => encodeImm 0xF#4 x 0x55#8
  | .loadRegs x => encodeImm 0xF#4 x 0x65#8

/-- The two bytes of an instruction, in address order (20_memory.md R52). -/
def encodeBytes (i : Instr) : List Byte := [highByte (encode i), lowByte (encode i)]

end Sys2Proof
end

