-- ==== Sys2Proof/Config.lean ====
section
/-! DEFINITION. The fixed parameters of the machine (00_scope.md R4) and the one value nothing constrains.
The defaults of the open parameters (R5) stand in Machine/Params.lean. -/

namespace Sys2Proof.Config

/-- `MEM_SIZE`: bytes of memory, addresses `0x000..0xFFF` (00_scope.md R4). -/
def memSize : Nat := 4096

/-- `STACK_DEPTH`: return addresses the call stack holds (00_scope.md R4). -/
def stackDepth : Nat := 16

/-- `ENTRY`: the reset value of `pc` and the load address of the program (00_scope.md R4). -/
def entry : Word := 0x0200#16

/-- `FONT_BASE`: the first byte of the font table (00_scope.md R4). -/
def fontBase : Nat := 0

/-- `FONT_LEN`: bytes of the font table (00_scope.md R4). -/
def fontLen : Nat := 80

/-- `FONT_STRIDE`: bytes per font sprite, the multiplier of `Fx29` (00_scope.md R4). -/
def fontStride : Nat := 5

/-- `DISPLAY_W`: columns of the display port's logical grid (00_scope.md R4). -/
def displayW : Nat := 64

/-- `DISPLAY_H`: rows of the display port's logical grid (00_scope.md R4). -/
def displayH : Nat := 32

/-- `BP_CAP`, `WP_CAP`: capacity of the debug monitor's two lists (00_scope.md R4). -/
def listCap : Nat := 255

/-- FREE VALUE. `rand()`: what the random source answers at the draw of this number, under no law
(44_index_jump_random.md R143; log entry 1). It has no body: nothing can be proved of a draw. -/
opaque randomByte : Nat → Byte

end Sys2Proof.Config
end

