-- ==== Sys2Proof/Machine/Params.lean ====
section
/-! DEFINITION. The open parameters of 00_scope.md R5: those that resets and the input port read, as a record that
State carries, and the spec's defaults. `MEM_INIT` is an argument of powerOn and boot (Machine/Ops.lean), `DISPLAY_OOR`
one of the picture (Machine/Display.lean), `rand()` and the key input are draws (Config.lean, Machine/Turns.lean). -/

namespace Sys2Proof.Machine

/-- `FONT`, `KEY_W` and `KEY_EMPTY` (00_scope.md R5): fixed for one machine, so no step writes them. -/
structure Parameters where
  /-- `FONT`, the 80 bytes every reset loads at `0x000..0x04F` (10_state.md R30) -/
  font : Vector Byte 80
  /-- `KEY_W`, the width in bits of the last-pressed-key value, at least 8 (10_state.md R31) -/
  keyWidth : Nat
  /-- `KEY_EMPTY`, what the key buffer holds after every reset, `KEY_W` bits (10_state.md R31) -/
  keyEmpty : Nat
  deriving DecidableEq, Repr

namespace Params

/-- `FONT`, digits 0 to 7 (10_state.md R30; log entry 2). -/
def fontLow : List Byte :=
  [0xF0#8, 0x90#8, 0x90#8, 0x90#8, 0xF0#8,
   0x20#8, 0x60#8, 0x20#8, 0x20#8, 0x70#8,
   0xF0#8, 0x10#8, 0xF0#8, 0x80#8, 0xF0#8,
   0xF0#8, 0x10#8, 0xF0#8, 0x10#8, 0xF0#8,
   0x90#8, 0x90#8, 0xF0#8, 0x10#8, 0x10#8,
   0xF0#8, 0x80#8, 0xF0#8, 0x10#8, 0xF0#8,
   0xF0#8, 0x80#8, 0xF0#8, 0x90#8, 0xF0#8,
   0xF0#8, 0x10#8, 0x20#8, 0x40#8, 0x40#8]

/-- `FONT`, digits 8 to F (10_state.md R30; log entry 2). -/
def fontHigh : List Byte :=
  [0xF0#8, 0x90#8, 0xF0#8, 0x90#8, 0xF0#8,
   0xF0#8, 0x90#8, 0xF0#8, 0x10#8, 0xF0#8,
   0xF0#8, 0x90#8, 0xF0#8, 0x90#8, 0x90#8,
   0xE0#8, 0x90#8, 0xE0#8, 0x90#8, 0xE0#8,
   0xF0#8, 0x80#8, 0x80#8, 0x80#8, 0xF0#8,
   0xE0#8, 0x90#8, 0x90#8, 0x90#8, 0xE0#8,
   0xF0#8, 0x80#8, 0xF0#8, 0x80#8, 0xF0#8,
   0xF0#8, 0x80#8, 0xF0#8, 0x80#8, 0x80#8]

/-- `FONT`: the 80 bytes reset loads at `0x000..0x04F` (10_state.md R30). PRESUMED: the bytes are the spec's default,
which it takes from general knowledge (93_implementation_defined.md G1; log entry 2). -/
def font : List Byte := fontLow ++ fontHigh

/-- `MEM_INIT`: what a byte holds at power-on. DESIGN CHOICE: the spec's default, all `0x00`
(00_scope.md R5; 92_eei_decisions.md D22; log entry 3). -/
def memInit (_addr : Nat) : Byte := 0x00#8

/-- `KEY_W`. DESIGN CHOICE: the spec's default, 8 bits (00_scope.md R5; 92_eei_decisions.md D16; log entry 5). -/
def keyWidth : Nat := 8

/-- `KEY_EMPTY`: what the key buffer holds after reset. DESIGN CHOICE: the spec's default, `0x00`
(00_scope.md R5; 92_eei_decisions.md D16; log entry 4). -/
def keyEmpty : Nat := 0x00

/-- The defaults together: what `State.reset` carries. -/
def defaults : Parameters where
  font := ⟨font.toArray, rfl⟩
  keyWidth := keyWidth
  keyEmpty := keyEmpty

end Params

end Sys2Proof.Machine
end

