-- ==== Sys2Proof/Machine/State.lean ====
section
/-! DEFINITION. The state of the machine as plain data (10_state.md R20 to R35), the reasons a step can stop, and
the state after reset. Fields that are the model's own, not the spec's, say so. -/

namespace Sys2Proof.Machine

/-- The memory array `RAM[0x000..0xFFF]` (10_state.md R27): the bytes that differ from what reset leaves at their
address, in rising order of address. Memory.wf (Machine/Ops.lean) is the canonical form. -/
abbrev Memory := List Host.Cell

/-- What an access was for (60_exceptions.md R201, the detail of `MemoryFault`). -/
inductive AccessKind where
  | fetch
  | read
  | write
  deriving DecidableEq, Repr

/-- The four kinds of fault of the spec with their recorded detail (60_exceptions.md R201). -/
inductive FaultCause where
  /-- code 1: the fetched word matches no row of the opcode table -/
  | decodeFault (op : Nibble) (addr : Addr)
  /-- code 2: `CALL` with 16 entries in use -/
  | stackOverflow
  /-- code 3: `RET` with no entry in use -/
  | stackUnderflow
  /-- code 4: a byte access above `0xFFF`, with the offending address as an unbounded natural -/
  | memoryFault (access : AccessKind) (addr : Nat)
  deriving DecidableEq, Repr

/-- The `fault` record (10_state.md R32). `word` is absent for a fetch fault. -/
structure FaultRecord where
  cause : FaultCause
  pc0 : Word
  word : Option Word
  deriving DecidableEq, Repr

/-- The events of the display port (45_draw.md R152, R153); a point carries its coordinates as naturals. -/
inductive DisplayEvent where
  | clear
  | point (px py : Nat)
  deriving DecidableEq, Repr

/-- A command of the debug monitor, its line already parsed (60_exceptions.md R221; log entries 7
and 17). -/
inductive Command where
  /-- `g<hex-addr>` -/
  | goto (addr : Nat)
  /-- `n` -/
  | next
  /-- `x<hex-count><hex-addr>` -/
  | examine (count addr : Nat)
  /-- `b<hex-addr>` -/
  | breakpoint (addr : Word)
  /-- `w<hex-word>` -/
  | watchpoint (word : Word)
  /-- `r` -/
  | run
  /-- `R` -/
  | reset
  /-- `m<hex-addr><hex-count>` -/
  | dump (addr count : Nat)
  /-- `q` -/
  | quit
  /-- any other input -/
  | other
  deriving DecidableEq, Repr

/-- The monitor's mode (00_scope.md R8): Armed prompts at every boundary, Ignoring only after a hit. -/
inductive MonitorMode where
  | armed
  | ignoring
  deriving DecidableEq, Repr

/-- An entry of the breakpoint or the watchpoint list: the identifier given at registration and the value compared
(60_exceptions.md R223). -/
structure ListEntry where
  id : Nat
  value : Word
  deriving DecidableEq, Repr

/-- What the monitor reports instead of dropping silently (60_exceptions.md R223). -/
inductive MonitorReport where
  | breakpointsFull (addr : Word)
  | watchpointsFull (word : Word)
  deriving DecidableEq, Repr

/-- The state of the debug monitor (10_state.md R33), outside the core. -/
structure Monitor where
  /-- the enable flag -/
  enabled : Bool
  /-- Armed or Ignoring -/
  mode : MonitorMode
  /-- up to 255 `pc` values, in order of registration -/
  breakpoints : List ListEntry
  /-- up to 255 raw instruction words, in order of registration -/
  watchpoints : List ListEntry
  /-- MODEL'S OWN. The lines waiting at the console, next first (log entry 7) -/
  console : List Command
  /-- the registrations refused so far, oldest first (60_exceptions.md R223) -/
  reports : List MonitorReport
  deriving DecidableEq, Repr

/-- MODEL'S OWN. One turn of one agent (00_scope.md R9; log entry 6). -/
inductive Turn where
  /-- the core's turn: the boundary's check, then one tick if nothing holds it -/
  | core
  /-- the input agent writes the key buffer -/
  | key (code : Nat)
  /-- debugging is toggled, also during a hold (log entries 9, 18) -/
  | toggleDebug
  /-- the operator types one line at the monitor's console -/
  | line (c : Command)
  /-- the host applies reset -/
  | reset
  /-- the host ends the run (window close) -/
  | close
  deriving DecidableEq, Repr

/-- The whole state (10_state.md R20, R32, R33). -/
structure State where
  /-- `V[0..15]`; `VF` is `V[15]` (R21) -/
  v : Vector Byte 16
  /-- `I` (R24) -/
  i : Word
  /-- `pc` (R25) -/
  pc : Word
  /-- `SP`, the count of entries in use, 0 to 16 (R26) -/
  sp : Fin 17
  /-- `stack[0..15]` (R26) -/
  stack : Vector Word 16
  /-- `RAM` (R27) -/
  mem : Memory
  /-- `DT` (R28) -/
  dt : Byte
  /-- `ST` (R28) -/
  st : Byte
  /-- `KEY`, a raw key code of `KEY_W` bits (R31; log entry 5) -/
  key : Nat
  /-- the `halted` latch (R32) -/
  halted : Bool
  /-- the `fault` record (R32) -/
  fault : Option FaultRecord
  /-- the display-port events emitted so far, oldest first: the core's output (45_draw.md R154) -/
  events : List DisplayEvent
  /-- the debug monitor (R33) -/
  monitor : Monitor
  /-- the open parameters of this machine, which nothing writes (00_scope.md R5; log entries 2, 4, 5) -/
  params : Parameters
  /-- MODEL'S OWN. How many draws were made: numbers the free values of `rand()` (log entry 1) -/
  draws : Nat
  /-- MODEL'S OWN. Whose turn comes next, first one first; when empty, the core's (log entry 6) -/
  schedule : List Turn
  /-- MODEL'S OWN. The host has ended the run (70_reset_and_hazards.md R249) -/
  ended : Bool
  deriving DecidableEq, Repr

/-- Why a step of the model stops. None of these is a fault of the spec's R201: those are next states, with `halted`
and the record written (60_exceptions.md R203; log entry 8). -/
inductive Fault where
  /-- raised by the core's turn when the core is halted: "from then on the core has no step" (60_exceptions.md R203);
  carries the record of the fault that halted it. Safe: the machine stops too. -/
  | coreHalted (record : Option FaultRecord)
  /-- raised by every step after the host ended the run: "there is simply no further tick" (70_reset_and_hazards.md
  R249). Not a fault of the core. Safe: the machine stops too. -/
  | runEnded
  deriving DecidableEq, Repr

/-- Instructions without a meaning. Every instruction has one, so nothing raises this. -/
inductive Refusal where
  /-- raised by an arm of exec whose instruction is not modelled yet. Safe. -/
  | notModelled (mnemonic : String)
  deriving DecidableEq, Repr

/-- The monitor at power-on: off, its lists empty (70_reset_and_hazards.md R244). DESIGN CHOICE: Armed (log entry 9). -/
def Monitor.off : Monitor where
  enabled := false
  mode := .armed
  breakpoints := []
  watchpoints := []
  console := []
  reports := []

/-- The machine right after power-on and reset (10_state.md R35; 70_reset_and_hazards.md R240, R244), with no program
loaded, at the default parameters. Nothing is listed in memory: an unlisted address reads as the default font or
`MEM_INIT`. -/
def State.reset : State where
  v := Vector.replicate 16 0x00#8
  i := 0x0000#16
  pc := Config.entry
  sp := 0
  stack := Vector.replicate 16 0x0000#16
  mem := []
  dt := 0x00#8
  st := 0x00#8
  key := Params.keyEmpty
  halted := false
  fault := none
  events := []
  monitor := Monitor.off
  params := Params.defaults
  draws := 0
  schedule := []
  ended := false

end Sys2Proof.Machine
end

