-- ==== Sys2Proof/Machine/Ops.lean ====
section
/-! DEFINITION. The named operations over memory, registers, the call stack, the timers, the fetch, the fault and its
only way out (reset), and the loader. The meanings are written over these. -/

namespace Sys2Proof.Machine

/-- What a meaning answers. -/
abbrev Result := Host.Outcome State Fault Refusal

/-! ## Memory: byte accesses to `RAM[0x000..0xFFF]` (20_memory.md R50 to R57) -/

/-- What an unlisted address reads as: what power-on and reset leave there, `FONT` at `0x000..0x04F` and `MEM_INIT`
elsewhere, at the defaults (20_memory.md R51; log entries 2 and 3). A machine with other parameters lists the bytes in
which it differs. -/
def Memory.unlisted (a : Nat) : Byte :=
  if a < Config.fontLen then Params.font.getD a 0x00#8 else Params.memInit a

/-- The listed byte at an address. -/
def Memory.lookupByte : Memory → Nat → Option Byte
  | [], _ => none
  | (b, v) :: m, a => if b = a then some v else Memory.lookupByte m a

/-- `MemRead(addr, 1)` (00_scope.md R7). Every caller has checked the range first (20_memory.md R55, R57;
log entry 16). -/
def Memory.read (m : Memory) (a : Nat) : Byte := (Memory.lookupByte m a).getD (Memory.unlisted a)

/-- Lists a byte at its place in the rising order. -/
def Memory.putByte : Memory → Nat → Byte → Memory
  | [], a, v => [(a, v)]
  | (b, u) :: m, a, v =>
    if a < b then (a, v) :: (b, u) :: m
    else if a = b then (a, v) :: m
    else (b, u) :: Memory.putByte m a v

/-- Takes an address off the list. -/
def Memory.dropByte (m : Memory) (a : Nat) : Memory := m.filter (fun c => c.1 != a)

/-- `MemWrite(addr, 1, v)` (00_scope.md R7), keeping the canonical form: a byte equal to what the unlisted address
reads as is not listed. Nothing exists above `0xFFF`; every caller has checked the range first. -/
def Memory.write (m : Memory) (a : Nat) (v : Byte) : Memory :=
  if a < Config.memSize then
    if v = Memory.unlisted a then m.dropByte a else m.putByte a v
  else m

/-- The canonical form: addresses strictly rising and inside the memory, and no entry equal to what its address reads
as when unlisted. -/
abbrev Memory.wf (m : Memory) : Prop :=
  m.Pairwise (fun c d => c.1 < d.1) ∧ ∀ c ∈ m, c.1 < Config.memSize ∧ c.2 ≠ Memory.unlisted c.1

/-- Writes bytes at rising addresses from `a` on (20_memory.md R53, "ascending"). -/
def Memory.writeRun (m : Memory) (a : Nat) : List Byte → Memory
  | [] => m
  | v :: vs => Memory.writeRun (m.write a v) (a + 1) vs

/-- The memory that holds `f a` at every address `a` below `n`. -/
def Memory.ofFn (n : Nat) (f : Nat → Byte) : Memory :=
  (List.range n).filterMap (fun a => if f a = Memory.unlisted a then none else some (a, f a))

/-! ## General registers (10_state.md R21, R22) -/

/-- `VF`, the flag: a second name of `V[15]` (10_state.md R21, R23). -/
def VF : Reg := 15

/-- `V[x]`. -/
def State.reg (s : State) (x : Reg) : Byte := s.v.get x

/-- `V[x] <- b`. -/
def State.setReg (s : State) (x : Reg) (b : Byte) : State := { s with v := s.v.set x.val b x.isLt }

/-- `V[k] <- f k` for each `k` of a list of registers, in its order. -/
def State.setRegs (s : State) (ks : List Reg) (f : Reg → Byte) : State :=
  ks.foldl (fun t k => t.setReg k (f k)) s

/-! ## The call stack (10_state.md R26) -/

/-- `push(v)`: write, then increment; none when 16 entries are in use. -/
def State.push (s : State) (w : Word) : Option State :=
  if h : s.sp.val < 16 then
    some { s with stack := s.stack.set s.sp.val w h, sp := ⟨s.sp.val + 1, by omega⟩ }
  else none

/-- `pop()`: decrement, then read; none when no entry is in use. The entry keeps its value. -/
def State.pop (s : State) : Option (Word × State) :=
  if h : s.sp.val = 0 then none
  else some (s.stack.get ⟨s.sp.val - 1, by omega⟩, { s with sp := ⟨s.sp.val - 1, by omega⟩ })

/-! ## Timers and the program counter (60_exceptions.md R211, 10_state.md R25) -/

/-- `tick(timer)`: one less, never below zero (60_exceptions.md R211). -/
def timerTick (t : Byte) : Byte := if t = 0x00#8 then 0x00#8 else t - 1

/-- Phase 1 of the tick: both timers (00_scope.md R10). -/
def State.tickTimers (s : State) : State := { s with dt := timerTick s.dt, st := timerTick s.st }

/-- Phase 2 of the tick: the big-endian word at `pc`, none when `pc + 1` is above `0xFFF` as a natural
(20_memory.md R56). -/
def State.fetch (s : State) : Option Word :=
  if s.pc.toNat + 1 < Config.memSize then
    some (wordOfBytes (s.mem.read s.pc.toNat) (s.mem.read (s.pc.toNat + 1)))
  else none

/-- Phase 3 of the tick: `pc` goes past the word (00_scope.md R10). -/
def State.advance (s : State) : State := { s with pc := s.pc + 2 }

/-- `pc <- target` (00_scope.md R7). -/
def State.jump (s : State) (target : Word) : State := { s with pc := target }

/-- A skip: 2 more is added to `pc` if the condition holds (41_skips.md, 00_scope.md R8). -/
def State.skipIf (s : State) (c : Bool) : State := { s with pc := if c then s.pc + 2 else s.pc }

/-! ## The display port, the core's side (45_draw.md R152, R153) -/

/-- Emits events, in order. -/
def State.emit (s : State) (es : List DisplayEvent) : State := { s with events := s.events ++ es }

/-! ## Taking a fault, and the way out of it (60_exceptions.md R200 to R208) -/

/-- The code of a fault's kind (60_exceptions.md R201). -/
def FaultCause.code : FaultCause → Nat
  | .decodeFault _ _ => 1
  | .stackOverflow => 2
  | .stackUnderflow => 3
  | .memoryFault _ _ => 4

/-- `raise F(info)`: the first fault is recorded, the core halts, and nothing else of the state changes
(60_exceptions.md R203, R205). -/
def State.raise (s : State) (c : FaultCause) (pc0 : Word) (word : Option Word) : State :=
  { s with halted := true, fault := if s.halted then s.fault else some ⟨c, pc0, word⟩ }

/-- A fault of the instruction being executed: `pc` is already `pc0 + 2`, and the record holds the instruction's word
(60_exceptions.md R205). -/
def State.raiseIn (s : State) (c : FaultCause) (i : Instr) : State := s.raise c (s.pc - 2) (some (encode i))

/-- `reset()`: loads this machine's `FONT` and `KEY_EMPTY`, whatever they are (70_reset_and_hazards.md R240,
00_scope.md R5). The only way out of a fault (R208). Stack entries, memory outside the font, the display and the monitor
keep what they hold (R241; 60_exceptions.md R224). -/
def State.resetCore (s : State) : State :=
  { s with
    v := Vector.replicate 16 0x00#8
    i := 0x0000#16
    dt := 0x00#8
    st := 0x00#8
    sp := 0
    mem := s.mem.writeRun Config.fontBase s.params.font.toList
    pc := Config.entry
    key := s.params.keyEmpty
    halted := false
    fault := none }

/-- The input agent's write of the key buffer: a value of `KEY_W` bits (10_state.md R31; log entry 5). -/
def State.pressKey (s : State) (code : Nat) : State := { s with key := code % 2 ^ s.params.keyWidth }

/-! ## Power-on, the loader, boot (70_reset_and_hazards.md R244 to R247) -/

/-- Power-on of the machine with these parameters, before the first reset: memory holds `MEM_INIT`, the monitor is off
(70_reset_and_hazards.md R244). What the other elements hold is overwritten by reset, or never read (log entry 10). -/
def State.powerOn (params : Parameters) (memInit : Nat → Byte) : State :=
  { State.reset with params := params, mem := Memory.ofFn Config.memSize memInit }

/-- Why a load fails (70_reset_and_hazards.md R245, R246). It is no fault of the core (60_exceptions.md R209). -/
inductive LoadFault where
  /-- the image would overflow memory -/
  | tooLong
  /-- the host cannot supply the image -/
  | unreadable
  deriving DecidableEq, Repr

/-- `load_program(bytes)`: the image goes to `0x200` on, byte by byte; nothing is written when it does not fit
(70_reset_and_hazards.md R245, R246). `none` is a file the host cannot open. -/
def State.loadProgram (s : State) : Option (List Byte) → Except LoadFault State
  | none => .error .unreadable
  | some image =>
    if Config.entry.toNat + image.length > Config.memSize then .error .tooLong
    else .ok { s with mem := s.mem.writeRun Config.entry.toNat image }

/-- The boot order, for any parameters: power-on, reset, load; ticks follow (70_reset_and_hazards.md R244). -/
def State.boot (params : Parameters) (memInit : Nat → Byte) (image : Option (List Byte)) : Except LoadFault State :=
  (State.powerOn params memInit).resetCore.loadProgram image

/-! ## Placing a word where the next fetch reads it -/

/-- The address `pc` fetches from if it can, else the entry point. -/
def fetchSlot (pc : Word) : Word := if pc.toNat + 1 < Config.memSize then pc else Config.entry

/-- The state with a word stored big-endian at an address. -/
def State.placeWord (s : State) (a : Nat) (w : Word) : State :=
  { s with mem := s.mem.writeRun a [highByte w, lowByte w] }

end Sys2Proof.Machine
end

