-- ==== Sys2Proof/Machine/Monitor.lean ====
section
/-! DEFINITION. The debug monitor as an interface to the core, at the boundary between two ticks
(60_exceptions.md R218 to R226). Its console syntax and printing are outside the hardware (00_scope.md R3). -/

namespace Sys2Proof.Machine

/-- What a boundary ends with: the monitor holds the core, or lets the next tick run (60_exceptions.md R220). -/
inductive Gate where
  | hold (s : State)
  | go (s : State)
  deriving DecidableEq, Repr

/-- A value is in a list (60_exceptions.md R220). -/
def listed (l : List ListEntry) (w : Word) : Bool := l.any (fun e => e.value == w)

/-- The hit test: `pc` is a breakpoint, or the word at `pc` is a watchpoint; there is no word, and so no match, when
`pc` is out of range (60_exceptions.md R220). -/
def State.monitorHit (s : State) : Bool :=
  listed s.monitor.breakpoints s.pc ||
    match s.fetch with
    | some w => listed s.monitor.watchpoints w
    | none => false

/-- Appends an entry with a new sequential identifier, the count of entries before it (60_exceptions.md R221, R223;
log entry 13); none when the list is full. -/
def register (l : List ListEntry) (w : Word) : Option (List ListEntry) :=
  if l.length < Config.listCap then some (l ++ [⟨l.length, w⟩]) else none

/-- `b`: a new breakpoint, or a report that the list is full (60_exceptions.md R223). -/
def Monitor.addBreakpoint (m : Monitor) (addr : Word) : Monitor :=
  match register m.breakpoints addr with
  | some l => { m with breakpoints := l }
  | none => { m with reports := m.reports ++ [.breakpointsFull addr] }

/-- `w`: a new watchpoint, or a report that the list is full (60_exceptions.md R223). -/
def Monitor.addWatchpoint (m : Monitor) (word : Word) : Monitor :=
  match register m.watchpoints word with
  | some l => { m with watchpoints := l }
  | none => { m with reports := m.reports ++ [.watchpointsFull word] }

/-- What a command does to the core, and whether the monitor keeps holding it (60_exceptions.md R222). -/
def obey (c : Command) (s : State) : Gate :=
  match c with
  | .goto addr => .hold { s with pc := BitVec.ofNat 16 addr }
  | .next => .go s
  | .examine _ _ => .hold s
  | .breakpoint addr => .hold { s with monitor := s.monitor.addBreakpoint addr }
  | .watchpoint word => .hold { s with monitor := s.monitor.addWatchpoint word }
  | .run => .go { s with monitor := { s.monitor with mode := .ignoring } }
  | .reset => .hold (s.emit [.clear]).resetCore
  | .dump _ _ => .hold s
  | .quit => .hold { s with ended := true }
  | .other => .hold s

/-- The next line of the console is obeyed; with no line the monitor keeps prompting, as for an unrecognised one
(60_exceptions.md R221). -/
def prompt (s : State) : Gate :=
  match s.monitor.console with
  | [] => .hold s
  | c :: rest => obey c { s with monitor := { s.monitor with console := rest } }

/-- The check at a boundary (60_exceptions.md R219, R220). One command is obeyed in one boundary of the model: while
the monitor stays, the next boundary prompts again, still Armed. -/
def boundary (s : State) : Gate :=
  if s.monitor.enabled then
    let t := if s.monitorHit then { s with monitor := { s.monitor with mode := .armed } } else s
    match t.monitor.mode with
    | .armed => prompt t
    | .ignoring => .go t
  else .go s

end Sys2Proof.Machine
end

