-- ==== Sys2Proof/Machine/Flags.lean ====
section
/-! DEFINITION. The three values an instruction writes to `VF` as a by-product (10_state.md R23). -/

namespace Sys2Proof.Machine

/-- `8xy6`: the bit shifted out, `V[y] & 1` (43_alu.md R136). -/
def shrFlag (vy : Byte) : Byte := vy &&& 0x01#8

/-- `8xy7`: 1 when `V[y]` is strictly greater than `V[x]`, unsigned, else 0 (43_alu.md R137). -/
def subnFlag (vx vy : Byte) : Byte := if vy.toNat > vx.toNat then 0x01#8 else 0x00#8

/-- `8xyE`: the masked bit in place, `V[x] & 0x80`, that is `0x00` or `0x80` (43_alu.md R138). -/
def shlFlag (vx : Byte) : Byte := vx &&& 0x80#8

end Sys2Proof.Machine
end

