-- ==== Sys2Proof/Machine/Operands.lean ====
section
/-! DEFINITION. The operand forms: immediates, the run of registers of `Fx55` and `Fx65`, and addresses through `I`
(30_encoding.md R73, 20_memory.md R54, R57). -/

namespace Sys2Proof.Machine

/-- `zext_16(addr)` (30_encoding.md R73). -/
def zextAddr (addr : Addr) : Word := addr.setWidth 16

/-- `zext_16(V[x])` (00_scope.md R7). -/
def zextByte (b : Byte) : Word := b.setWidth 16

/-- The registers `V[0..x]`, ascending: `x` is the index of the last one (30_encoding.md R73). -/
def regsTo (x : Reg) : List Reg := (List.finRange 16).filter (fun k => k ≤ x)

/-- The effective address `I + k`, a natural number, not reduced (20_memory.md R54). -/
def State.dataAddr (s : State) (k : Nat) : Nat := s.i.toNat + k

/-- The whole-range check: the highest address an instruction touches is inside memory (20_memory.md R55, R57). -/
def State.dataOk (s : State) (last : Nat) : Bool := decide (s.dataAddr last < Config.memSize)

end Sys2Proof.Machine
end

