-- ==== Sys2Proof/Machine/Alu.lean ====
section
/-! DEFINITION. Family 8: register-to-register operations (43_alu.md). The last three write `VF` first and then read
their operands again (00_scope.md R13). -/

namespace Sys2Proof.Machine

/-- `LD Vx, Vy` (43_alu.md R130). -/
def execLdReg (x y : Reg) (s : State) : Result := .next (s.setReg x (s.reg y))

/-- `OR Vx, Vy` (43_alu.md R131). -/
def execOrReg (x y : Reg) (s : State) : Result := .next (s.setReg x (s.reg x ||| s.reg y))

/-- `AND Vx, Vy` (43_alu.md R132). -/
def execAndReg (x y : Reg) (s : State) : Result := .next (s.setReg x (s.reg x &&& s.reg y))

/-- `XOR Vx, Vy` (43_alu.md R133). -/
def execXorReg (x y : Reg) (s : State) : Result := .next (s.setReg x (s.reg x ^^^ s.reg y))

/-- `ADD Vx, Vy`, wrapping, no flag (43_alu.md R134). -/
def execAddReg (x y : Reg) (s : State) : Result := .next (s.setReg x (s.reg x + s.reg y))

/-- `SUB Vx, Vy`, wrapping, no flag (43_alu.md R135). -/
def execSubReg (x y : Reg) (s : State) : Result := .next (s.setReg x (s.reg x - s.reg y))

/-- `SHR Vx, Vy`: the flag, then `V[y] >> 1` with `V[y]` read again (43_alu.md R136). -/
def execShr (x y : Reg) (s : State) : Result :=
  let t := s.setReg VF (shrFlag (s.reg y))
  .next (t.setReg x (t.reg y >>> 1))

/-- `SUBN Vx, Vy`: the flag, then `V[y] - V[x]` with both read again (43_alu.md R137). -/
def execSubn (x y : Reg) (s : State) : Result :=
  let t := s.setReg VF (subnFlag (s.reg x) (s.reg y))
  .next (t.setReg x (t.reg y - t.reg x))

/-- `SHL Vx`: the flag, then `V[x] << 1` with `V[x]` read again; `y` is ignored (43_alu.md R138). -/
def execShl (x _y : Reg) (s : State) : Result :=
  let t := s.setReg VF (shlFlag (s.reg x))
  .next (t.setReg x (t.reg x <<< 1))

end Sys2Proof.Machine
end

