-- ==== Sys2Proof/Machine/Display.lean ====
section
/-! DEFINITION. The points of a sprite (45_draw.md R150, R151), and the display sink's picture as a view of the events
(45_draw.md R154): the sink is outside the core and nothing of the core reads it. -/

namespace Sys2Proof.Machine

/-- The points of one row: bit 7 is the leftmost column, `vx`, and bit 0 the rightmost, `vx + 7` (45_draw.md R151;
PRESUMED, 93_implementation_defined.md G2, log entry 11). Coordinates are naturals, not wrapped or clipped (R153). -/
def rowPoints (vx py : Nat) (row : Byte) : List DisplayEvent :=
  (List.range 8).filterMap (fun c => if row.getLsbD (7 - c) then some (.point (vx + c) py) else none)

/-- The points of an `n`-row sprite read from `base` on, rows downward, then columns rightward (45_draw.md R150). -/
def spritePoints (m : Memory) (base n vx vy : Nat) : List DisplayEvent :=
  (List.range n).flatMap (fun r => rowPoints vx (vy + r) (m.read (base + r)))

/-- `DISPLAY_OOR`: what the sink does with a point outside the 64x32 grid (00_scope.md R5, 45_draw.md R154). The spec
leaves it open; every policy it names is here. -/
inductive OutOfGrid where
  | drop
  | wrap
  | refuse
  deriving DecidableEq, Repr

/-- The sink's grid `G[0..63][0..31]`, column first (45_draw.md R154). -/
abbrev Picture := Vector (Vector Bool 32) 64

/-- The grid with every bit 0 (45_draw.md R154). -/
def Picture.blank : Picture := Vector.replicate 64 (Vector.replicate 32 false)

/-- `G[px][py] <- 1`, for a point inside the grid. -/
def Picture.light (g : Picture) (px : Fin 64) (py : Fin 32) : Picture :=
  g.set px.val ((g.get px).set py.val true py.isLt) px.isLt

/-- What one event does to the grid; none is a run the sink refuses (45_draw.md R154). -/
def Picture.draw (policy : OutOfGrid) (g : Picture) : DisplayEvent → Option Picture
  | .clear => some Picture.blank
  | .point px py =>
    if px < Config.displayW ∧ py < Config.displayH then some (g.light (Fin.ofNat 64 px) (Fin.ofNat 32 py))
    else
      match policy with
      | .drop => some g
      | .wrap => some (g.light (Fin.ofNat 64 px) (Fin.ofNat 32 py))
      | .refuse => none

/-- The picture after a list of events, oldest first. -/
def Picture.drawAll (policy : OutOfGrid) : Picture → List DisplayEvent → Option Picture
  | g, [] => some g
  | g, e :: es =>
    match g.draw policy e with
    | some g' => Picture.drawAll policy g' es
    | none => none

/-- The picture a sink shows that starts from a blank grid (45_draw.md R154; log entry 12). -/
def State.picture (s : State) (policy : OutOfGrid) : Option Picture := Picture.drawAll policy Picture.blank s.events

end Sys2Proof.Machine
end

