-- ==== Sys2Proof/Machine/Draw.lean ====
section
/-! DEFINITION. Family D: sprite draw (45_draw.md). -/

namespace Sys2Proof.Machine

/-- `DRW Vx, Vy, n`: emits a point for each set bit of `n` rows at `I` on, or `MemoryFault(read)` with nothing emitted
when the last row is above `0xFFF`; `n = 0` reads and emits nothing, whatever `I` holds (45_draw.md R150). -/
def execDrw (x y : Reg) (n : Nibble) (s : State) : Result :=
  if n = 0#4 then .next s
  else if s.dataOk (n.toNat - 1) then
    .next (s.emit (spritePoints s.mem (s.dataAddr 0) n.toNat (s.reg x).toNat (s.reg y).toNat))
  else .next (s.raiseIn (.memoryFault .read (s.dataAddr (n.toNat - 1))) (.drw x y n))

end Sys2Proof.Machine
end

