-- ==== Sys2Proof/Machine/Flow.lean ====
section
/-! DEFINITION. Families 0, 1, 2: clear, return, system jump, jump, call (40_flow.md). -/

namespace Sys2Proof.Machine

/-- `CLS`: the clear event (40_flow.md R100). -/
def execCls (s : State) : Result := .next (s.emit [.clear])

/-- `RET`: `pc <- pop()`, or `StackUnderflow` (40_flow.md R101). -/
def execRet (s : State) : Result :=
  match s.pop with
  | some (target, t) => .next (t.jump target)
  | none => .next (s.raiseIn .stackUnderflow .ret)

/-- `SYS addr`: exactly the effect of a jump (40_flow.md R102). -/
def execSys (addr : Addr) (s : State) : Result := .next (s.jump (zextAddr addr))

/-- `JP addr` (40_flow.md R103). -/
def execJp (addr : Addr) (s : State) : Result := .next (s.jump (zextAddr addr))

/-- `CALL addr`: push the advanced `pc`, then jump, or `StackOverflow` (40_flow.md R104). -/
def execCall (addr : Addr) (s : State) : Result :=
  match s.push s.pc with
  | some t => .next (t.jump (zextAddr addr))
  | none => .next (s.raiseIn .stackOverflow (.call addr))

end Sys2Proof.Machine
end

