-- ==== Sys2Proof/Machine/Immediate.lean ====
section
/-! DEFINITION. Families 6, 7: load and add immediate (42_immediate.md). -/

namespace Sys2Proof.Machine

/-- `LD Vx, kk` (42_immediate.md R120). -/
def execLdImm (x : Reg) (kk : Byte) (s : State) : Result := .next (s.setReg x kk)

/-- `ADD Vx, kk`, wrapping, no flag (42_immediate.md R121). -/
def execAddImm (x : Reg) (kk : Byte) (s : State) : Result := .next (s.setReg x (s.reg x + kk))

end Sys2Proof.Machine
end

