-- ==== Sys2Proof/Machine/IndexJumpRandom.lean ====
section
/-! DEFINITION. Families A, B, C: load `I`, indexed jump, random (44_index_jump_random.md). -/

namespace Sys2Proof.Machine

/-- `LD I, addr` (44_index_jump_random.md R141). -/
def execLdI (addr : Addr) (s : State) : Result := .next { s with i := zextAddr addr }

/-- `JP V0, addr` (44_index_jump_random.md R142). -/
def execJpV0 (addr : Addr) (s : State) : Result := .next (s.jump (zextAddr addr + zextByte (s.reg 0)))

/-- `RND` for one answer `r` of the random source (44_index_jump_random.md R143). -/
def rndWith (r : Byte) (x : Reg) (kk : Byte) (s : State) : State := s.setReg x (r &&& kk)

/-- `RND Vx, kk`: `V[x] <- rand() & kk` with a fresh draw (44_index_jump_random.md R143). The draw is a free value,
numbered by the state's counter (log entry 1). -/
def execRnd (x : Reg) (kk : Byte) (s : State) : Result :=
  .next { rndWith (Config.randomByte s.draws) x kk s with draws := s.draws + 1 }

end Sys2Proof.Machine
end

