-- ==== Sys2Proof/Machine/KeySkips.lean ====
section
/-! DEFINITION. Family E: skips on the key buffer (46_key_skips.md). -/

namespace Sys2Proof.Machine

/-- The comparison `KEY = zext_KEY_W(V[x])`: the whole key code against all 8 bits (46_key_skips.md R160). -/
def State.keyIs (s : State) (x : Reg) : Bool := s.key == (s.reg x).toNat

/-- `SKP Vx` (46_key_skips.md R160). -/
def execSkp (x : Reg) (s : State) : Result := .next (s.skipIf (s.keyIs x))

/-- `SKNP Vx` (46_key_skips.md R161). -/
def execSknp (x : Reg) (s : State) : Result := .next (s.skipIf (!s.keyIs x))

end Sys2Proof.Machine
end

