-- ==== Sys2Proof/Machine/MemoryTransfer.lean ====
section
/-! DEFINITION. Family F, second part: BCD store, register store, register load (48_memory_transfer.md). `I` is
unchanged by all three (00_scope.md R12). -/

namespace Sys2Proof.Machine

/-- The decimal digits of a byte: hundreds, tens, units (48_memory_transfer.md R180). -/
def digits (b : Byte) : List Byte :=
  [BitVec.ofNat 8 (b.toNat / 100), BitVec.ofNat 8 (b.toNat / 10 % 10), BitVec.ofNat 8 (b.toNat % 10)]

/-- `LD B, Vx`: the digits of `V[x]` at `I`, `I+1`, `I+2` (48_memory_transfer.md R180). -/
def execLdB (x : Reg) (s : State) : Result :=
  if s.dataOk 2 then .next { s with mem := s.mem.writeRun (s.dataAddr 0) (digits (s.reg x)) }
  else .next (s.raiseIn (.memoryFault .write (s.dataAddr 2)) (.ldB x))

/-- `LD [I], Vx`: registers 0 to `x` at `I .. I+x` (48_memory_transfer.md R181). -/
def execStoreRegs (x : Reg) (s : State) : Result :=
  if s.dataOk x.val then .next { s with mem := s.mem.writeRun (s.dataAddr 0) ((regsTo x).map s.reg) }
  else .next (s.raiseIn (.memoryFault .write (s.dataAddr x.val)) (.storeRegs x))

/-- `LD Vx, [I]`: registers 0 to `x` from `I .. I+x` (48_memory_transfer.md R182). -/
def execLoadRegs (x : Reg) (s : State) : Result :=
  if s.dataOk x.val then .next (s.setRegs (regsTo x) (fun k => s.mem.read (s.dataAddr k.val)))
  else .next (s.raiseIn (.memoryFault .read (s.dataAddr x.val)) (.loadRegs x))

end Sys2Proof.Machine
end

