-- ==== Sys2Proof/Machine/Skips.lean ====
section
/-! DEFINITION. Families 3, 4, 5, 9: skips on registers (41_skips.md). -/

namespace Sys2Proof.Machine

/-- `SE Vx, kk` (41_skips.md R110). -/
def execSeImm (x : Reg) (kk : Byte) (s : State) : Result := .next (s.skipIf (s.reg x == kk))

/-- `SNE Vx, kk` (41_skips.md R111). -/
def execSneImm (x : Reg) (kk : Byte) (s : State) : Result := .next (s.skipIf (s.reg x != kk))

/-- `SE Vx, Vy` (41_skips.md R112). -/
def execSeReg (x y : Reg) (s : State) : Result := .next (s.skipIf (s.reg x == s.reg y))

/-- `SNE Vx, Vy` (41_skips.md R113). -/
def execSneReg (x y : Reg) (s : State) : Result := .next (s.skipIf (s.reg x != s.reg y))

end Sys2Proof.Machine
end

