-- ==== Sys2Proof/Machine/TimerKeyIndex.lean ====
section
/-! DEFINITION. Family F, first part: timers, key read, index arithmetic (47_timer_key_index.md). -/

namespace Sys2Proof.Machine

/-- `LD Vx, DT`: the value after this tick's decrement (47_timer_key_index.md R170). -/
def execLdVxDT (x : Reg) (s : State) : Result := .next (s.setReg x s.dt)

/-- `LD Vx, K`: `KEY[7:0]`, without waiting (47_timer_key_index.md R173). -/
def execLdVxK (x : Reg) (s : State) : Result := .next (s.setReg x (BitVec.ofNat 8 s.key))

/-- `LD DT, Vx` (47_timer_key_index.md R171). -/
def execLdDT (x : Reg) (s : State) : Result := .next { s with dt := s.reg x }

/-- `LD ST, Vx` (47_timer_key_index.md R172). -/
def execLdST (x : Reg) (s : State) : Result := .next { s with st := s.reg x }

/-- `ADD I, Vx`, modulo 65536, no flag, no fault (47_timer_key_index.md R174). -/
def execAddI (x : Reg) (s : State) : Result := .next { s with i := s.i + zextByte (s.reg x) }

/-- `LD F, Vx`: `I <- V[x] * 5`, all 8 bits used (47_timer_key_index.md R175). -/
def execLdF (x : Reg) (s : State) : Result :=
  .next { s with i := zextByte (s.reg x) * BitVec.ofNat 16 Config.fontStride }

end Sys2Proof.Machine
end

