-- ==== Sys2Proof/Machine/Tick.lean ====
section
/-! DEFINITION. One tick: timers, fetch, advance, decode, execute (00_scope.md R10). -/

namespace Sys2Proof.Machine

/-- Phases 4 and 5: decode the word and execute it, or `DecodeFault` (30_encoding.md R77). `s` is the state after
phase 3. -/
def decodeAndExec (w : Word) (s : State) : Result :=
  match decodeWord w with
  | .ok i => exec i s
  | .error _ =>
    .next (s.raise (.decodeFault (fieldsOf w).op (fieldsOf w).addr) (s.pc - 2) (some w))

/-- One tick of a core that is not halted (00_scope.md R10). A fault ends the tick at its phase, so a fetch fault
comes before a decode fault and that before a fault of the instruction (60_exceptions.md R206). -/
def tick (s : State) : Result :=
  let t := s.tickTimers
  match t.fetch with
  | none => .next (t.raise (.memoryFault .fetch t.pc.toNat) t.pc none)
  | some w => decodeAndExec w t.advance

end Sys2Proof.Machine
end

