-- ==== Sys2Proof/Machine/Turns.lean ====
section
/-! DEFINITION. The agents' turns (00_scope.md R9): exactly one agent acts at a time, and a tick is indivisible to the
others. -/

namespace Sys2Proof.Machine

/-- The core's turn: a halted core has no step (60_exceptions.md R203); else the monitor's check at the boundary, then
one tick unless the monitor holds the core (60_exceptions.md R219). -/
def coreTurn (s : State) : Result :=
  if s.halted then .fault (.coreHalted s.fault)
  else
    match boundary s with
    | .hold t => .next t
    | .go t => tick t

/-- An outside agent's write to a core that runs; the state of a halted core is frozen until reset
(60_exceptions.md R203; DEDUCED, log entry 15). -/
def State.unlessHalted (s : State) (t : State) : State := if s.halted then s else t

/-- One turn of one agent, taken off the schedule already (00_scope.md R9). A toggle of debugging flips the enable flag
alone (DESIGN CHOICE, log entry 9), and may come while the monitor holds the core: that ends the hold with no command
obeyed, where 60_exceptions.md R225 names no toggle and no rule says when one may come (DESIGN CHOICE, log entry 18). -/
def takeTurn (a : Turn) (s : State) : Result :=
  match a with
  | .core => coreTurn s
  | .key code => .next (s.unlessHalted (s.pressKey code))
  | .toggleDebug => .next (s.unlessHalted { s with monitor := { s.monitor with enabled := !s.monitor.enabled } })
  | .line c => .next (s.unlessHalted { s with monitor := { s.monitor with console := s.monitor.console ++ [c] } })
  | .reset => .next s.resetCore
  | .close => .next { s with ended := true }

/-- The next turn: the schedule's first, or the core's when nothing is scheduled (log entry 6). -/
def nextTurn (s : State) : Result :=
  match s.schedule with
  | [] => coreTurn s
  | a :: rest => takeTurn a { s with schedule := rest }

end Sys2Proof.Machine
end

