-- ==== Sys2Proof/Machine/Step.lean ====
section
/-! DEFINITION. The step: one turn of one agent, which for the core is one tick (00_scope.md R9, R10). -/

namespace Sys2Proof.Machine

/-- One step. After the host has ended the run there is none (70_reset_and_hazards.md R249). -/
def step (s : State) : Host.Outcome State Fault Refusal :=
  if s.ended then .fault .runEnded else nextTurn s

/-- The state whose next step runs the instruction of this table word: the word is stored where the fetch reads it,
and what would keep the core from running (a fault, the end of the run, the monitor, another agent's turn, a `pc` that
cannot fetch) is put aside (log entry 14). -/
def State.withFetchWord (s : State) (nbits w : Nat) : State :=
  let slot := fetchSlot s.pc
  let t := s.placeWord slot.toNat (BitVec.ofNat 16 (w % 2 ^ nbits))
  { t with
    pc := slot
    halted := false
    fault := none
    monitor := { s.monitor with enabled := false }
    schedule := []
    ended := false }

end Sys2Proof.Machine
end

