-- ==== Sys2Proof/Safety.lean ====
section
/-! DEFINITION. The terms the claims are stated in: what keeps the core from running, frames, which instruction may
write what, when an instruction faults, the invariants, and runs of ticks. -/

namespace Sys2Proof.Machine

/-! ## Whose turn it is -/

/-- The core has the next turn and may step: the run has not ended, the core is not halted, no other agent is
scheduled. -/
structure Ready (s : State) : Prop where
  notEnded : s.ended = false
  notHalted : s.halted = false
  coreNext : s.schedule = []

/-- The monitor prompts at the boundary before the next tick: it is on, and Armed or hit (60_exceptions.md R220). -/
def Prompting (s : State) : Prop :=
  s.monitor.enabled = true ∧ (s.monitor.mode = .armed ∨ s.monitorHit = true)

/-- The state after the monitor took the first line of its console: Armed, the line gone. -/
def State.lineTaken (s : State) (rest : List Command) : State :=
  { s with monitor := { s.monitor with mode := .armed, console := rest } }

/-! ## Frames: what of the state may differ, and that nothing else does -/

/-- `t` differs from `s` at most in the registers of `w`. -/
structure RegsOnly (w : Reg → Prop) (s t : State) : Prop where
  others : ∀ z, ¬ w z → t.reg z = s.reg z
  bytes : ∀ a, t.mem.read a = s.mem.read a
  rest : t = { s with v := t.v }

/-- `t` differs from `s` at most in `pc`. -/
structure PcOnly (s t : State) : Prop where
  bytes : ∀ a, t.mem.read a = s.mem.read a
  rest : t = { s with pc := t.pc }

/-- `t` differs from `s` at most in the `len` bytes of memory from `base` on. -/
structure BytesOnly (base len : Nat) (s t : State) : Prop where
  outside : ∀ a, ¬ (base ≤ a ∧ a < base + len) → t.mem.read a = s.mem.read a
  rest : t = { s with mem := t.mem }

/-- The state a fault of instruction `i` leaves, `s` being the state the instruction runs on: the latch and the
record, nothing else (60_exceptions.md R203, R205). -/
def State.faulted (s : State) (c : FaultCause) (i : Instr) : State :=
  { s with halted := true, fault := some ⟨c, s.pc - 2, some (encode i)⟩ }

/-- The state phases 1 and 3 of the tick make: timers decremented, `pc` past the word (00_scope.md R10). -/
def State.begun (s : State) : State :=
  { s with
    dt := if s.dt = 0x00#8 then 0x00#8 else s.dt - 1
    st := if s.st = 0x00#8 then 0x00#8 else s.st - 1
    pc := s.pc + 2 }

/-! ## Which instruction may write what (10_state.md R20 to R26, 20_memory.md R53) -/

/-- Register `z` is a destination of `i`, or `VF` written as a by-product (10_state.md R22, R23). -/
def writesReg (i : Instr) (z : Reg) : Bool :=
  match i with
  | .ldImm x _ | .addImm x _ | .rnd x _ | .ldVxDT x | .ldVxK x => z == x
  | .ldReg x _ | .orReg x _ | .andReg x _ | .xorReg x _ | .addReg x _ | .subReg x _ => z == x
  | .shr x _ | .subn x _ | .shl x _ => z == x || z == VF
  | .loadRegs x => z ≤ x
  | .cls | .ret | .sys _ | .jp _ | .call _ | .jpV0 _ => false
  | .seImm _ _ | .sneImm _ _ | .seReg _ _ | .sneReg _ _ | .skp _ | .sknp _ => false
  | .ldI _ | .drw _ _ _ | .ldDT _ | .ldST _ | .addI _ | .ldF _ | .ldB _ | .storeRegs _ => false

/-- `i` executed on `s` stores to address `a`: one of the 3 bytes of `LD B, Vx` or the `x + 1` of `LD [I], Vx`
(48_memory_transfer.md R180, R181, R183). -/
def storesAt (i : Instr) (s : State) (a : Nat) : Prop :=
  s.dataAddr 0 ≤ a ∧ ∃ x, (i = .ldB x ∧ a < s.dataAddr 0 + 3) ∨ (i = .storeRegs x ∧ a < s.dataAddr 0 + (x.val + 1))

/-- `i` writes `I` (10_state.md R24). -/
def writesIndex (i : Instr) : Prop := (∃ a, i = .ldI a) ∨ ∃ x, i = .addI x ∨ i = .ldF x

/-- `i` writes `pc` beyond the tick's advance (10_state.md R25). -/
def writesPc (i : Instr) : Prop :=
  i = .ret ∨ (∃ a, i = .sys a ∨ i = .jp a ∨ i = .call a ∨ i = .jpV0 a) ∨
    (∃ x kk, i = .seImm x kk ∨ i = .sneImm x kk) ∨ (∃ x y, i = .seReg x y ∨ i = .sneReg x y) ∨
    ∃ x, i = .skp x ∨ i = .sknp x

/-- The fault `i` raises on `s`, if any (60_exceptions.md R201, R202). -/
def faultOf (i : Instr) (s : State) : Option FaultCause :=
  match i with
  | .call _ => if s.sp.val = 16 then some .stackOverflow else none
  | .ret => if s.sp.val = 0 then some .stackUnderflow else none
  | .drw _ _ n =>
    if n.toNat > 0 ∧ s.i.toNat + n.toNat - 1 > 0xFFF then some (.memoryFault .read (s.i.toNat + n.toNat - 1)) else none
  | .ldB _ => if s.i.toNat + 2 > 0xFFF then some (.memoryFault .write (s.i.toNat + 2)) else none
  | .storeRegs x => if s.i.toNat + x.val > 0xFFF then some (.memoryFault .write (s.i.toNat + x.val)) else none
  | .loadRegs x => if s.i.toNat + x.val > 0xFFF then some (.memoryFault .read (s.i.toNat + x.val)) else none
  | .cls | .sys _ | .jp _ | .jpV0 _ => none
  | .seImm _ _ | .sneImm _ _ | .seReg _ _ | .sneReg _ _ | .skp _ | .sknp _ => none
  | .ldImm _ _ | .addImm _ _ | .rnd _ _ | .ldVxDT _ | .ldVxK _ => none
  | .ldReg _ _ | .orReg _ _ | .andReg _ _ | .xorReg _ _ | .addReg _ _ | .subReg _ _ => none
  | .shr _ _ | .subn _ _ | .shl _ _ => none
  | .ldI _ | .ldDT _ | .ldST _ | .addI _ | .ldF _ => none

/-! ## Display -/

/-- A point's coordinates are those some sprite can have: at most 262 and 269 (45_draw.md R150). -/
def DisplayEvent.inBounds : DisplayEvent → Prop
  | .clear => True
  | .point px py => px ≤ 262 ∧ py ≤ 269

/-- The order of points within one sprite: rows downward, then columns rightward (45_draw.md R150). -/
def DisplayEvent.before : DisplayEvent → DisplayEvent → Prop
  | .point px py, .point qx qy => py < qy ∨ (py = qy ∧ px < qx)
  | _, _ => False

/-! ## Invariants -/

/-- A monitor list is within its capacity and numbered in order of registration (60_exceptions.md R223; log entry 13). -/
structure ListInv (l : List ListEntry) : Prop where
  capacity : l.length ≤ 255
  numbered : l.map (·.id) = List.range l.length

/-- What holds of the machine in every state a run meets. -/
structure Inv (s : State) : Prop where
  /-- memory keeps its canonical form -/
  memory : s.mem.wf
  /-- the latch is set exactly when a fault is recorded (10_state.md R32) -/
  latch : s.halted = s.fault.isSome
  /-- a record lacks its word exactly for a fetch fault (10_state.md R32, 60_exceptions.md R205) -/
  word : ∀ r, s.fault = some r → (r.word = none ↔ ∃ a, r.cause = .memoryFault .fetch a)
  /-- a recorded memory fault is about an address a fetch or a data access cannot reach (20_memory.md R55, R56) -/
  offence : ∀ r k a, s.fault = some r → r.cause = .memoryFault k a → 0xFFF ≤ a ∧ (k ≠ .fetch → 0xFFF < a)
  /-- every point emitted has coordinates a sprite can have (45_draw.md R150) -/
  points : ∀ e ∈ s.events, e.inBounds
  /-- the key buffer holds `KEY_W` bits (10_state.md R31) -/
  key : s.key < 2 ^ s.params.keyWidth
  /-- `KEY_EMPTY` is such a value too, and `KEY_W` is at least 8 (00_scope.md R5) -/
  empty : 8 ≤ s.params.keyWidth ∧ s.params.keyEmpty < 2 ^ s.params.keyWidth
  /-- the breakpoint list -/
  breakpoints : ListInv s.monitor.breakpoints
  /-- the watchpoint list -/
  watchpoints : ListInv s.monitor.watchpoints

/-- The bound on `pc` and on return addresses that ticks keep: `pc` never wraps (10_state.md R25). -/
structure PcBounded (s : State) : Prop where
  pc : s.pc.toNat ≤ 0x10FE
  entries : ∀ k : Fin 16, k.val < s.sp.val → (s.stack.get k).toNat ≤ 0x1000

/-! ## Runs of ticks -/

/-- `k` ticks lead from `s` to `t`, none from a halted core, each executing an instruction that meets `p`. -/
inductive TickRun (p : Instr → Prop) : Nat → State → State → Prop where
  | none (s : State) : TickRun p 0 s s
  | more {k : Nat} {s t u : State} {w : Word} {i : Instr} (running : s.halted = false) (word : s.fetch = some w)
      (decoded : decodeWord w = .ok i) (meets : p i) (ticked : tick s = .next t) (rest : TickRun p k t u) :
      TickRun p (k + 1) s u

end Sys2Proof.Machine
end

