-- ==== Sys2Proof/Certificates/Slice0/Obligations.lean ====
section
/-! DEFINITION. The statements for the provers. A statement about exec is about phase 5 of the tick: the state it is
given has its timers decremented and its `pc` already past the instruction's word (00_scope.md R10). -/

open Sys2Proof Sys2Proof.Machine

/-! ## Encoding -/

/-- Decoding the word of a well-formed instruction gives the instruction back, operands and all; so it does for its
two bytes with any bytes after them, and for the table's numbering of the word (30_encoding.md R70, R74, R75). -/
def Obligations.DecodeOfEncodeIsTheInstruction : Prop :=
  ∀ i : Instr, i.WellFormed →
    decodeWord (encode i) = .ok i ∧
    (∀ rest, decodeBytes (encodeBytes i ++ rest) = .ok (i, rest)) ∧
    decodeTableWord 16 (encode i).toNat = some i

/-- A word that decodes is the word of the instruction it decodes to, which is well-formed: no legal word has two
spellings, and no bit is dropped (30_encoding.md R74, R75, R78). -/
def Obligations.EncodeOfDecodeIsTheWord : Prop :=
  ∀ (w : Word) (i : Instr), decodeWord w = .ok i → encode i = w ∧ i.WellFormed

/-- The words that are no instruction are exactly those of the table of R77, and the rejection names the word's `op`
and `addr`. -/
def Obligations.IllegalWordsAreExactlyThoseListed : Prop :=
  ∀ w : Word,
    let op := w.toNat / 4096
    let n := w.toNat % 16
    let kk := w.toNat % 256
    ((∃ r, decodeWord w = .error r) ↔
      (op = 5 ∧ n ≠ 0) ∨ (op = 8 ∧ n ∈ [0x8, 0x9, 0xA, 0xB, 0xC, 0xD, 0xF]) ∨ (op = 9 ∧ n ≠ 0) ∨
      (op = 0xE ∧ kk ∉ [0x9E, 0xA1]) ∨
      (op = 0xF ∧ kk ∉ [0x07, 0x0A, 0x15, 0x18, 0x1E, 0x29, 0x33, 0x55, 0x65])) ∧
    (∀ r, decodeWord w = .error r → r = .illegal (BitVec.ofNat 4 op) (BitVec.ofNat 12 (w.toNat % 4096)))

/-- The six fields of a word are those of the documented masks (30_encoding.md R72). -/
def Obligations.FieldsAreTheDocumentedMasks : Prop :=
  ∀ w : Word,
    (fieldsOf w).op.setWidth 16 = (w >>> 12) &&& 0xF#16 ∧
    (fieldsOf w).x.val = ((w >>> 8) &&& 0xF#16).toNat ∧
    (fieldsOf w).y.val = ((w >>> 4) &&& 0xF#16).toNat ∧
    (fieldsOf w).n.setWidth 16 = w &&& 0xF#16 ∧
    (fieldsOf w).kk.setWidth 16 = w &&& 0xFF#16 ∧
    (fieldsOf w).addr.setWidth 16 = w &&& 0xFFF#16

/-- Every row of the table, with every operand: the word made of the row's fixed nibbles and the operands at their
places decodes to the row's instruction (30_encoding.md R71, R74, R75, R76). -/
def Obligations.EveryRowOfTheTableDecodes : Prop :=
  ∀ (x y : Reg) (n : Nibble) (kk : Byte) (addr : Addr),
    let fx : Nibble := BitVec.ofFin x
    let fy : Nibble := BitVec.ofFin y
    decodeWord 0x00E0#16 = .ok .cls ∧ decodeWord 0x00EE#16 = .ok .ret ∧
    (addr ≠ 0x0E0#12 → addr ≠ 0x0EE#12 → decodeWord (0x0#4 ++ addr) = .ok (.sys addr)) ∧
    decodeWord (0x1#4 ++ addr) = .ok (.jp addr) ∧ decodeWord (0x2#4 ++ addr) = .ok (.call addr) ∧
    decodeWord (0x3#4 ++ (fx ++ kk)) = .ok (.seImm x kk) ∧ decodeWord (0x4#4 ++ (fx ++ kk)) = .ok (.sneImm x kk) ∧
    decodeWord (0x5#4 ++ (fx ++ (fy ++ 0x0#4))) = .ok (.seReg x y) ∧
    decodeWord (0x6#4 ++ (fx ++ kk)) = .ok (.ldImm x kk) ∧ decodeWord (0x7#4 ++ (fx ++ kk)) = .ok (.addImm x kk) ∧
    decodeWord (0x8#4 ++ (fx ++ (fy ++ 0x0#4))) = .ok (.ldReg x y) ∧
    decodeWord (0x8#4 ++ (fx ++ (fy ++ 0x1#4))) = .ok (.orReg x y) ∧
    decodeWord (0x8#4 ++ (fx ++ (fy ++ 0x2#4))) = .ok (.andReg x y) ∧
    decodeWord (0x8#4 ++ (fx ++ (fy ++ 0x3#4))) = .ok (.xorReg x y) ∧
    decodeWord (0x8#4 ++ (fx ++ (fy ++ 0x4#4))) = .ok (.addReg x y) ∧
    decodeWord (0x8#4 ++ (fx ++ (fy ++ 0x5#4))) = .ok (.subReg x y) ∧
    decodeWord (0x8#4 ++ (fx ++ (fy ++ 0x6#4))) = .ok (.shr x y) ∧
    decodeWord (0x8#4 ++ (fx ++ (fy ++ 0x7#4))) = .ok (.subn x y) ∧
    decodeWord (0x8#4 ++ (fx ++ (fy ++ 0xE#4))) = .ok (.shl x y) ∧
    decodeWord (0x9#4 ++ (fx ++ (fy ++ 0x0#4))) = .ok (.sneReg x y) ∧
    decodeWord (0xA#4 ++ addr) = .ok (.ldI addr) ∧ decodeWord (0xB#4 ++ addr) = .ok (.jpV0 addr) ∧
    decodeWord (0xC#4 ++ (fx ++ kk)) = .ok (.rnd x kk) ∧
    decodeWord (0xD#4 ++ (fx ++ (fy ++ n))) = .ok (.drw x y n) ∧
    decodeWord (0xE#4 ++ (fx ++ 0x9E#8)) = .ok (.skp x) ∧ decodeWord (0xE#4 ++ (fx ++ 0xA1#8)) = .ok (.sknp x) ∧
    decodeWord (0xF#4 ++ (fx ++ 0x07#8)) = .ok (.ldVxDT x) ∧ decodeWord (0xF#4 ++ (fx ++ 0x0A#8)) = .ok (.ldVxK x) ∧
    decodeWord (0xF#4 ++ (fx ++ 0x15#8)) = .ok (.ldDT x) ∧ decodeWord (0xF#4 ++ (fx ++ 0x18#8)) = .ok (.ldST x) ∧
    decodeWord (0xF#4 ++ (fx ++ 0x1E#8)) = .ok (.addI x) ∧ decodeWord (0xF#4 ++ (fx ++ 0x29#8)) = .ok (.ldF x) ∧
    decodeWord (0xF#4 ++ (fx ++ 0x33#8)) = .ok (.ldB x) ∧ decodeWord (0xF#4 ++ (fx ++ 0x55#8)) = .ok (.storeRegs x) ∧
    decodeWord (0xF#4 ++ (fx ++ 0x65#8)) = .ok (.loadRegs x)

/-- Words written out from the table decode to the instructions they stand for, one at least of each of the sixteen
families of R8, and the exception of row 3 holds (30_encoding.md R74, R75; 95_test_vectors.md T-N1 to T-N6). -/
def Obligations.WordsOfTheTableDecode : Prop :=
  decodeWord 0x00E0#16 = .ok .cls ∧ decodeWord 0x00EE#16 = .ok .ret ∧ decodeWord 0x0000#16 = .ok (.sys 0x000#12) ∧
  decodeWord 0x1ABC#16 = .ok (.jp 0xABC#12) ∧ decodeWord 0x2ABC#16 = .ok (.call 0xABC#12) ∧
  decodeWord 0x3A2A#16 = .ok (.seImm 10 0x2A#8) ∧ decodeWord 0x4A2B#16 = .ok (.sneImm 10 0x2B#8) ∧
  decodeWord 0x5120#16 = .ok (.seReg 1 2) ∧ decodeWord 0x6005#16 = .ok (.ldImm 0 0x05#8) ∧
  decodeWord 0x7302#16 = .ok (.addImm 3 0x02#8) ∧ decodeWord 0x8AB6#16 = .ok (.shr 10 11) ∧
  decodeWord 0x80FE#16 = .ok (.shl 0 15) ∧ decodeWord 0x9120#16 = .ok (.sneReg 1 2) ∧
  decodeWord 0xA20A#16 = .ok (.ldI 0x20A#12) ∧ decodeWord 0xB300#16 = .ok (.jpV0 0x300#12) ∧
  decodeWord 0xC00F#16 = .ok (.rnd 0 0x0F#8) ∧
  decodeWord 0xD12F#16 = .ok (.drw 1 2 0xF#4) ∧ decodeWord 0xE19E#16 = .ok (.skp 1) ∧
  decodeWord 0xF965#16 = .ok (.loadRegs 9) ∧ decodeWord 0xFFFF#16 = .error (.illegal 0xF#4 0xFFF#12)

/-! ## Reset, loader, boot -/

/-- What State.reset holds: the reset values of R35, with `FONT` and `KEY_EMPTY` as in the parameters it carries and
`MEM_INIT` (the defaults the model takes for the three: log entries 2, 3, 4). -/
def Obligations.ResetStateHoldsTheResetValues : Prop :=
  (∀ x, State.reset.reg x = 0x00#8) ∧ State.reset.i = 0x0000#16 ∧ State.reset.pc = 0x0200#16 ∧ State.reset.sp = 0 ∧
  State.reset.dt = 0x00#8 ∧ State.reset.st = 0x00#8 ∧ State.reset.key = State.reset.params.keyEmpty ∧
  State.reset.halted = false ∧ State.reset.fault = none ∧
  (∀ a (h : a < 80), State.reset.mem.read a = State.reset.params.font[a]) ∧
  (∀ a, 80 ≤ a → State.reset.mem.read a = Params.memInit a)

/-- The reset operation, for every machine's `FONT` and `KEY_EMPTY`: it writes every element R240 names, the 80 bytes of
the font among them, and no other byte of memory and no stack entry (R241); it emits no event (45_draw.md R152) and leaves
the monitor (60_exceptions.md R224) and the parameters. That it leaves the draw counter, the schedule and the mark of the
run's end is the model's choice (log entries 1, 6, 8). -/
def Obligations.ResetOperationSetsEveryElement : Prop :=
  ∀ s : State,
    let t := s.resetCore
    (∀ x, t.reg x = 0x00#8) ∧ t.i = 0x0000#16 ∧ t.dt = 0x00#8 ∧ t.st = 0x00#8 ∧ t.sp = 0 ∧ t.pc = 0x0200#16 ∧
    t.key = s.params.keyEmpty ∧ t.halted = false ∧ t.fault = none ∧
    (∀ a (h : a < 80), t.mem.read a = s.params.font[a]) ∧ (∀ a, 80 ≤ a → t.mem.read a = s.mem.read a) ∧
    t.stack = s.stack ∧ t.events = s.events ∧ t.monitor = s.monitor ∧ t.params = s.params ∧ t.draws = s.draws ∧
    t.schedule = s.schedule ∧ t.ended = s.ended

/-- The loader: an image of at most 3584 bytes lands at `0x200` on, byte by byte, and changes nothing else; a longer
image, or none, fails and writes nothing (70_reset_and_hazards.md R245, R246). -/
def Obligations.LoaderPlacesTheImageOrFails : Prop :=
  ∀ (s : State) (image : List Byte),
    (image.length ≤ 3584 → ∃ t, s.loadProgram (some image) = .ok t ∧ BytesOnly 0x200 image.length s t ∧
      ∀ k (h : k < image.length), t.mem.read (0x200 + k) = image[k]) ∧
    (3584 < image.length → s.loadProgram (some image) = .error .tooLong) ∧
    s.loadProgram none = .error .unreadable

/-- The boot state, for every `FONT`, `KEY_W`, `KEY_EMPTY`, `MEM_INIT` and image that fits: the font, then `MEM_INIT`,
then the image, then `MEM_INIT` again, `pc` at the image, the empty key in the buffer, and the machine's parameters, which
later resets use again (70_reset_and_hazards.md R243, R244; 20_memory.md R51). -/
def Obligations.BootLaysOutMemory : Prop :=
  ∀ (params : Parameters) (memInit : Nat → Byte) (image : List Byte), image.length ≤ 3584 →
    ∃ t, State.boot params memInit (some image) = .ok t ∧ t.pc = 0x0200#16 ∧ t.halted = false ∧ t.mem.wf ∧
      t.params = params ∧ t.key = params.keyEmpty ∧
      ∀ a, a < 4096 → t.mem.read a =
        if h : a < 80 then params.font[a]
        else if 0x200 ≤ a ∧ a < 0x200 + image.length then image.getD (a - 0x200) 0x00#8
        else memInit a

/-! ## The step -/

/-- A step of a ready core that no monitor watches runs the instruction at `pc`: when the two bytes there decode to
`i`, the step is exec of `i` on the state with the timers decremented and `pc` advanced (00_scope.md R10). -/
def Obligations.StepRunsTheDecodedInstruction : Prop :=
  ∀ (s : State) (i : Instr), Ready s → s.monitor.enabled = false → s.pc.toNat + 1 ≤ 0xFFF →
    decodeWord (wordOfBytes (s.mem.read s.pc.toNat) (s.mem.read (s.pc.toNat + 1))) = .ok i →
    step s = exec i s.begun

/-- A fetch at `0xFFF` or above faults: the timers are decremented, `pc` is not advanced, the record has no word, and
nothing else changes (20_memory.md R56, 60_exceptions.md R205). -/
def Obligations.FetchPastMemoryFaults : Prop :=
  ∀ s : State, Ready s → s.monitor.enabled = false → 0xFFF < s.pc.toNat + 1 →
    step s = .next { s with
      dt := s.begun.dt
      st := s.begun.st
      halted := true
      fault := some ⟨.memoryFault .fetch s.pc.toNat, s.pc, none⟩ }

/-- An illegal word faults: the timers are decremented, `pc` is `pc0 + 2`, the record holds the word, its `op` and its
`addr`, and nothing else changes (30_encoding.md R77, 60_exceptions.md R205). -/
def Obligations.IllegalWordFaults : Prop :=
  ∀ (s : State) (r : Reject), Ready s → s.monitor.enabled = false → s.pc.toNat + 1 ≤ 0xFFF →
    let w := wordOfBytes (s.mem.read s.pc.toNat) (s.mem.read (s.pc.toNat + 1))
    decodeWord w = .error r →
    step s = .next { s.begun with
      halted := true
      fault := some ⟨.decodeFault (w.extractLsb' 12 4) (w.extractLsb' 0 12), s.pc, some w⟩ }

/-- A halted core has no step, and its state is frozen until a reset: the core's turn answers the fault that halted it,
and no turn but the host's reset or its end of the run changes anything (60_exceptions.md R203; that a halted core drops the other
agents' turns is DEDUCED, log entry 15). -/
def Obligations.HaltedCoreIsFrozen : Prop :=
  ∀ s : State, s.halted = true → s.ended = false →
    (s.schedule = [] → step s = .fault (.coreHalted s.fault)) ∧
    (∀ a rest, s.schedule = a :: rest → a ≠ .reset → a ≠ .close →
      step s = (if a = .core then .fault (.coreHalted s.fault) else .next { s with schedule := rest }))

/-- Only a reset leaves `halted` (60_exceptions.md R208): a step from a halted state to one that is not halted is the
reset of R240. That this reset is the host's turn and never the monitor's `R` is DEDUCED (log entry 15), and the schedule
of turns is the model's choice (log entry 6). -/
def Obligations.OnlyResetLeavesHalted : Prop :=
  ∀ s t : State, s.halted = true → step s = .next t → t.halted = false →
    ∃ rest, s.schedule = .reset :: rest ∧ t = { s with schedule := rest }.resetCore ∧ t.pc = 0x0200#16 ∧ t.fault = none

/-- The host's end of the run: after it there is no step, and it leaves the core as it is
(70_reset_and_hazards.md R249; the schedule of turns is the model's choice, log entry 6). -/
def Obligations.EndedRunHasNoStep : Prop :=
  (∀ s : State, s.ended = true → step s = .fault .runEnded) ∧
  (∀ (s : State) (rest : List Turn), s.ended = false → s.schedule = .close :: rest →
    step s = .next { s with schedule := rest, ended := true })

/-- The input agent's turn: any key code of `KEY_W` bits goes to the key buffer, and nothing else changes
(10_state.md R31). The schedule of turns, and that a longer number scheduled as a code counts as its low `KEY_W` bits, is
the model's choice (log entries 6 and 5). -/
def Obligations.InputAgentWritesOnlyTheKeyBuffer : Prop :=
  ∀ (s : State) (code : Nat) (rest : List Turn), s.ended = false → s.halted = false →
    s.schedule = .key code :: rest →
    step s = .next { s with key := code % 2 ^ s.params.keyWidth, schedule := rest } ∧
    (code < 2 ^ s.params.keyWidth → step s = .next { s with key := code, schedule := rest })

/-! ## Invariants and whole-machine rules -/

/-- The invariant holds at reset. -/
def Obligations.ResetMeetsTheInvariant : Prop := Inv State.reset

/-- Every step, whoever's turn it is, keeps the invariant and the machine's parameters: the memory's canonical form, the
latch and its record, the bounds of the display's points, the width of the key buffer, the monitor's lists (that their
numbering starts at 0 is the model's choice, log entry 13). -/
def Obligations.EveryStepKeepsTheInvariant : Prop :=
  ∀ s t : State, Inv s → step s = .next t → Inv t ∧ t.params = s.params

/-- The bound on `pc` holds at reset. -/
def Obligations.ResetMeetsThePcBound : Prop := PcBounded State.reset

/-- Every tick keeps `pc` at most `0x10FE` and every return address in use at most `0x1000`, so the 16-bit wrap of `pc`
is never reached (10_state.md R25, 20_memory.md R56). The monitor's `g` command, which is no tick, may set any `pc`. -/
def Obligations.EveryTickKeepsThePcBound : Prop := ∀ s t : State, PcBounded s → tick s = .next t → PcBounded t

/-- Every instruction changes only what its row names (00_scope.md R12): registers that are no destination, bytes of
memory it does not store to, stack entries it does not push, and each other element unless it is the one instruction
that writes it, stay; the key buffer, the parameters and the monitor are never written. The draw counter, the schedule and
the mark of the run's end are the model's choice (log entries 1, 6, 8). -/
def Obligations.InstructionsChangeOnlyWhatTheirRowsName : Prop :=
  ∀ (i : Instr) (s t : State), exec i s = .next t →
    (∀ z, writesReg i z = false → t.reg z = s.reg z) ∧
    (∀ a, ¬ storesAt i s a → t.mem.read a = s.mem.read a) ∧
    (¬ writesIndex i → t.i = s.i) ∧
    (¬ writesPc i → t.pc = s.pc) ∧
    (∀ k : Fin 16, (∀ a, i = .call a → k.val ≠ s.sp.val) → t.stack.get k = s.stack.get k) ∧
    ((∀ a, i ≠ .call a) → i ≠ .ret → t.sp = s.sp) ∧
    ((∀ x, i ≠ .ldDT x) → t.dt = s.dt) ∧
    ((∀ x, i ≠ .ldST x) → t.st = s.st) ∧
    (i ≠ .cls → (∀ x y n, i ≠ .drw x y n) → t.events = s.events) ∧
    ((∀ x kk, i ≠ .rnd x kk) → t.draws = s.draws) ∧
    (faultOf i s = none → t.halted = s.halted ∧ t.fault = s.fault) ∧
    t.key = s.key ∧ t.params = s.params ∧ t.monitor = s.monitor ∧ t.schedule = s.schedule ∧ t.ended = s.ended

/-- An instruction faults exactly under the conditions of R202's table, with the detail R201 records, and then nothing
of it has taken effect, however many bytes or registers it was to move (R205; 20_memory.md R57). Under no other
condition does it halt, and it always answers a next state. -/
def Obligations.InstructionsFaultExactlyAsListed : Prop :=
  ∀ (i : Instr) (s : State), s.halted = false →
    (∀ c, faultOf i s = some c → exec i s = .next (s.faulted c i)) ∧
    (faultOf i s = none → ∃ t, exec i s = .next t ∧ t.halted = false ∧ t.fault = s.fault)

/-- Each timer loses one in every tick, the faulting ones too, and stops at zero; only an executed `LD DT, Vx` or
`LD ST, Vx` replaces its timer's value (60_exceptions.md R211, R212). -/
def Obligations.EveryTickDecrementsTheTimers : Prop :=
  ∀ s t : State, tick s = .next t →
    (∀ w x, s.fetch = some w → decodeWord w = .ok (.ldDT x) → t.dt = s.reg x) ∧
    ((∀ w x, s.fetch = some w → decodeWord w ≠ .ok (.ldDT x)) → t.dt.toNat = s.dt.toNat - 1) ∧
    (∀ w x, s.fetch = some w → decodeWord w = .ok (.ldST x) → t.st = s.reg x) ∧
    ((∀ w x, s.fetch = some w → decodeWord w ≠ .ok (.ldST x)) → t.st.toNat = s.st.toNat - 1)

/-- The exact law of the delay timer: over `k` ticks none of which executes `LD DT, Vx`, a value `v` becomes
`max(v - k, 0)` (60_exceptions.md R212, 70_reset_and_hazards.md R250). -/
def Obligations.DelayTimerCountsInstructions : Prop :=
  ∀ (k : Nat) (s t : State), TickRun (fun i => ∀ x, i ≠ .ldDT x) k s t → t.dt.toNat = s.dt.toNat - k

/-- No instruction reads the sound timer: executed with another `ST`, an instruction does the same to everything else,
and to `ST` what `LD ST, Vx` does or nothing (10_state.md R28). -/
def Obligations.SoundTimerIsNeverRead : Prop :=
  ∀ (i : Instr) (s t : State) (b : Byte), exec i s = .next t →
    exec i { s with st := b } = .next { t with st := if ∃ x, i = .ldST x then t.st else b }

/-- The display can never change what the core does: with other events before it, an instruction emits the same events
and does the same to everything else (45_draw.md R154). -/
def Obligations.DisplayIsNeverRead : Prop :=
  ∀ (i : Instr) (s t : State), exec i s = .next t →
    ∃ new, t.events = s.events ++ new ∧
      ∀ es, exec i { s with events := es } = .next { t with events := es ++ new }

/-- The monitor is not visible to a program: an instruction does the same whatever the monitor holds
(60_exceptions.md R226). -/
def Obligations.MonitorIsInvisibleToInstructions : Prop :=
  ∀ (i : Instr) (s t : State) (m : Monitor), exec i s = .next t →
    exec i { s with monitor := m } = .next { t with monitor := m }

/-- A store is seen by the very next fetch: `LD [I], Vx` over the word `pc` stands at leaves the word of `V[0]` and
`V[1]` to be fetched (20_memory.md R65). -/
def Obligations.StoresAreSeenByTheNextFetch : Prop :=
  ∀ (x : Reg) (s t : State), 1 ≤ x.val → s.i = s.pc → s.i.toNat + x.val ≤ 0xFFF → exec (.storeRegs x) s = .next t →
    t.fetch = some (wordOfBytes (s.reg 0) (s.reg 1))

/-! ## Families 0, 1, 2 -/

/-- `CLS` emits the clear event and does nothing else (40_flow.md R100). -/
def Obligations.ClsEmitsClear : Prop :=
  ∀ s : State, ∃ t, exec .cls s = .next t ∧ t = { s with events := s.events ++ [.clear] } ∧
    ∀ a, t.mem.read a = s.mem.read a

/-- `RET` takes the newest return address off the stack, whose entry keeps its value; with none it faults
(40_flow.md R101). -/
def Obligations.RetPopsOrUnderflows : Prop :=
  (∀ (s : State) (k : Fin 16), s.sp.val = k.val + 1 →
    ∃ t, exec .ret s = .next t ∧ t.pc = s.stack.get k ∧ t.sp.val = k.val ∧ t = { s with pc := t.pc, sp := t.sp } ∧
      ∀ a, t.mem.read a = s.mem.read a) ∧
  (∀ s : State, s.halted = false → s.sp.val = 0 → exec .ret s = .next (s.faulted .stackUnderflow .ret))

/-- `SYS addr` and `JP addr` set `pc` to `addr`, and nothing else (40_flow.md R102, R103). -/
def Obligations.SysAndJpSetPc : Prop :=
  ∀ (addr : Addr) (s : State),
    (∃ t, exec (.sys addr) s = .next t ∧ t.pc.toNat = addr.toNat ∧ PcOnly s t) ∧
    (∃ t, exec (.jp addr) s = .next t ∧ t.pc.toNat = addr.toNat ∧ PcOnly s t)

/-- `CALL addr` pushes the advanced `pc` and jumps; with 16 entries in use it faults (40_flow.md R104). -/
def Obligations.CallPushesOrOverflows : Prop :=
  ∀ (addr : Addr) (s : State),
    (s.sp.val < 16 → ∃ t, exec (.call addr) s = .next t ∧ t.pc.toNat = addr.toNat ∧ t.sp.val = s.sp.val + 1 ∧
      (∀ k : Fin 16, t.stack.get k = if k.val = s.sp.val then s.pc else s.stack.get k) ∧
      t = { s with pc := t.pc, sp := t.sp, stack := t.stack } ∧ ∀ a, t.mem.read a = s.mem.read a) ∧
    (s.halted = false → s.sp.val = 16 → exec (.call addr) s = .next (s.faulted .stackOverflow (.call addr)))

/-- A `RET` after a `CALL` comes back: `pc` is the address after the call and `SP` is what it was
(40_flow.md R101, R104). -/
def Obligations.RetUndoesCall : Prop :=
  ∀ (addr : Addr) (s t : State), s.sp.val < 16 → exec (.call addr) s = .next t →
    ∃ u, exec .ret t = .next u ∧ u.pc = s.pc ∧ u.sp = s.sp ∧ u = { s with stack := t.stack }

/-! ## Families 3, 4, 5, 9, E: skips -/

/-- The four register skips add 2 to `pc` exactly when their condition holds, and write nothing else
(41_skips.md R110 to R113). -/
def Obligations.RegisterSkipsAddTwo : Prop :=
  ∀ (x y : Reg) (kk : Byte) (s : State),
    (∃ t, exec (.seImm x kk) s = .next t ∧ PcOnly s t ∧
      (s.reg x = kk → t.pc = s.pc + 2) ∧ (s.reg x ≠ kk → t.pc = s.pc)) ∧
    (∃ t, exec (.sneImm x kk) s = .next t ∧ PcOnly s t ∧
      (s.reg x ≠ kk → t.pc = s.pc + 2) ∧ (s.reg x = kk → t.pc = s.pc)) ∧
    (∃ t, exec (.seReg x y) s = .next t ∧ PcOnly s t ∧
      (s.reg x = s.reg y → t.pc = s.pc + 2) ∧ (s.reg x ≠ s.reg y → t.pc = s.pc)) ∧
    (∃ t, exec (.sneReg x y) s = .next t ∧ PcOnly s t ∧
      (s.reg x ≠ s.reg y → t.pc = s.pc + 2) ∧ (s.reg x = s.reg y → t.pc = s.pc))

/-- The two key skips compare the whole key code with all 8 bits of the register, and exactly one of them skips
(46_key_skips.md R160, R161). -/
def Obligations.KeySkipsAreComplementary : Prop :=
  ∀ (x : Reg) (s : State),
    (∃ t, exec (.skp x) s = .next t ∧ PcOnly s t ∧
      (s.key = (s.reg x).toNat → t.pc = s.pc + 2) ∧ (s.key ≠ (s.reg x).toNat → t.pc = s.pc)) ∧
    (∃ t, exec (.sknp x) s = .next t ∧ PcOnly s t ∧
      (s.key ≠ (s.reg x).toNat → t.pc = s.pc + 2) ∧ (s.key = (s.reg x).toNat → t.pc = s.pc))

/-! ## Families 6, 7, 8 -/

/-- `LD Vx, kk` and `ADD Vx, kk` write their register, the sum modulo 256, and no flag (42_immediate.md R120, R121). -/
def Obligations.ImmediatesWriteOneRegister : Prop :=
  ∀ (x : Reg) (kk : Byte) (s : State),
    (∃ t, exec (.ldImm x kk) s = .next t ∧ t.reg x = kk ∧ RegsOnly (· = x) s t) ∧
    (∃ t, exec (.addImm x kk) s = .next t ∧ (t.reg x).toNat = ((s.reg x).toNat + kk.toNat) % 256 ∧
      RegsOnly (· = x) s t)

/-- `8xy0` to `8xy5` write their value to `V[x]`, modulo 256, and no flag (43_alu.md R130 to R135). -/
def Obligations.AluWritesOneRegister : Prop :=
  ∀ (x y : Reg) (s : State),
    (∃ t, exec (.ldReg x y) s = .next t ∧ t.reg x = s.reg y ∧ RegsOnly (· = x) s t) ∧
    (∃ t, exec (.orReg x y) s = .next t ∧ t.reg x = s.reg x ||| s.reg y ∧ RegsOnly (· = x) s t) ∧
    (∃ t, exec (.andReg x y) s = .next t ∧ t.reg x = s.reg x &&& s.reg y ∧ RegsOnly (· = x) s t) ∧
    (∃ t, exec (.xorReg x y) s = .next t ∧ t.reg x = s.reg x ^^^ s.reg y ∧ RegsOnly (· = x) s t) ∧
    (∃ t, exec (.addReg x y) s = .next t ∧ (t.reg x).toNat = ((s.reg x).toNat + (s.reg y).toNat) % 256 ∧
      RegsOnly (· = x) s t) ∧
    (∃ t, exec (.subReg x y) s = .next t ∧ (t.reg x).toNat = ((s.reg x).toNat + 256 - (s.reg y).toNat) % 256 ∧
      RegsOnly (· = x) s t)

/-- `SHR Vx, Vy` by the table of R136: every aliasing of `x`, `y` and `VF`. -/
def Obligations.ShrByItsTable : Prop :=
  ∀ (x y : Reg) (s : State), ∃ t, exec (.shr x y) s = .next t ∧ RegsOnly (fun z => z = x ∨ z = 15) s t ∧
    (x ≠ 15 → y ≠ 15 → t.reg 15 = s.reg y &&& 1#8 ∧ (t.reg x).toNat = (s.reg y).toNat / 2) ∧
    (x = 15 → y ≠ 15 → (t.reg 15).toNat = (s.reg y).toNat / 2) ∧
    (x ≠ 15 → y = 15 → t.reg 15 = s.reg 15 &&& 1#8 ∧ t.reg x = 0#8) ∧
    (x = 15 → y = 15 → t.reg 15 = 0#8)

/-- `SUBN Vx, Vy` by the table of R137: every aliasing of `x`, `y` and `VF`. -/
def Obligations.SubnByItsTable : Prop :=
  ∀ (x y : Reg) (s : State), ∃ t, exec (.subn x y) s = .next t ∧ RegsOnly (fun z => z = x ∨ z = 15) s t ∧
    let vx := (s.reg x).toNat
    let vy := (s.reg y).toNat
    let f := (s.reg 15).toNat
    let g := if vy > f then 1 else 0
    let h := if f > vx then 1 else 0
    (x ≠ 15 → y ≠ 15 → (t.reg 15).toNat = (if vy > vx then 1 else 0) ∧ (t.reg x).toNat = (vy + 256 - vx) % 256) ∧
    (x = y → x ≠ 15 → t.reg 15 = 0#8 ∧ t.reg x = 0#8) ∧
    (x = 15 → y ≠ 15 → (t.reg 15).toNat = (vy + 256 - g) % 256) ∧
    (x ≠ 15 → y = 15 → (t.reg 15).toNat = h ∧ (t.reg x).toNat = (h + 256 - vx) % 256) ∧
    (x = 15 → y = 15 → t.reg 15 = 0#8)

/-- `SHL Vx`: the flag is the masked bit in place, the result is doubled modulo 256, `y` has no effect, and on `VF`
itself the result is zero (43_alu.md R138). -/
def Obligations.ShlFlagIsTheMaskedBit : Prop :=
  ∀ (x y : Reg) (s : State), ∃ t, exec (.shl x y) s = .next t ∧ RegsOnly (fun z => z = x ∨ z = 15) s t ∧
    (∀ y', exec (.shl x y') s = .next t) ∧
    (x ≠ 15 → t.reg 15 = (if 128 ≤ (s.reg x).toNat then 0x80#8 else 0x00#8) ∧
      (t.reg x).toNat = 2 * (s.reg x).toNat % 256) ∧
    (x = 15 → t.reg 15 = 0x00#8)

/-! ## Families A, B, C, D -/

/-- `LD I, addr` sets `I`, and `JP V0, addr` sets `pc` to a sum that is not masked to 12 bits
(44_index_jump_random.md R141, R142). -/
def Obligations.IndexLoadAndIndexedJump : Prop :=
  ∀ (addr : Addr) (s : State),
    (∃ t, exec (.ldI addr) s = .next t ∧ t.i.toNat = addr.toNat ∧ t = { s with i := t.i } ∧
      ∀ a, t.mem.read a = s.mem.read a) ∧
    (∃ t, exec (.jpV0 addr) s = .next t ∧ t.pc.toNat = addr.toNat + (s.reg 0).toNat ∧ PcOnly s t)

/-- `RND Vx, kk` writes the draw masked with `kk`, so that no bit outside `kk` is set, and nothing else
(44_index_jump_random.md R143). The draw is a free value of which nothing is known; that free values are numbered by the
counter `draws`, and that each `RND` adds one to it, is the model's choice (log entry 1). -/
def Obligations.RndMasksTheDraw : Prop :=
  ∀ (x : Reg) (kk : Byte) (s : State),
    ∃ t, exec (.rnd x kk) s = .next t ∧ t.reg x = Config.randomByte s.draws &&& kk ∧ t.reg x &&& ~~~ kk = 0#8 ∧
      t.draws = s.draws + 1 ∧ (∀ z, z ≠ x → t.reg z = s.reg z) ∧ t = { s with v := t.v, draws := t.draws } ∧
      ∀ a, t.mem.read a = s.mem.read a

/-- `DRW Vx, Vy, n` emits exactly one point for each set bit of the `n` rows at `I` on, at `(V[x] + column, V[y] + row)`
without wrapping or clipping, rows downward and columns rightward; nothing else changes, `VF` included (45_draw.md R150;
which bit is the leftmost column is PRESUMED, log entry 11). -/
def Obligations.DrwEmitsTheLitPixels : Prop :=
  ∀ (x y : Reg) (n : Nibble) (s : State), (n.toNat = 0 ∨ s.i.toNat + n.toNat - 1 ≤ 0xFFF) →
    ∃ t new, exec (.drw x y n) s = .next t ∧ t = { s with events := s.events ++ new } ∧
      (∀ e, e ∈ new ↔ ∃ r c, r < n.toNat ∧ c < 8 ∧ (s.mem.read (s.i.toNat + r)).getLsbD (7 - c) = true ∧
        e = .point ((s.reg x).toNat + c) ((s.reg y).toNat + r)) ∧
      new.Pairwise DisplayEvent.before ∧ ∀ a, t.mem.read a = s.mem.read a

/-- A sprite whose last row is above `0xFFF` faults with nothing emitted (45_draw.md R150). -/
def Obligations.DrwPastMemoryFaults : Prop :=
  ∀ (x y : Reg) (n : Nibble) (s : State), s.halted = false → 0 < n.toNat → 0xFFF < s.i.toNat + n.toNat - 1 →
    exec (.drw x y n) s = .next (s.faulted (.memoryFault .read (s.i.toNat + n.toNat - 1)) (.drw x y n))

/-- Drawing only sets pixels: whatever a sink does with points outside the grid, a pixel lit before a sprite's points is
lit after them (70_reset_and_hazards.md R252, 45_draw.md R154). -/
def Obligations.PointsNeverClearAPixel : Prop :=
  ∀ (policy : OutOfGrid) (m : Memory) (base n vx vy : Nat) (g g' : Picture) (px : Fin 64) (py : Fin 32),
    Picture.drawAll policy g (spritePoints m base n vx vy) = some g' →
    (g.get px).get py = true → (g'.get px).get py = true

/-! ## Family F -/

/-- The timers' instructions move a byte between a register and a timer (47_timer_key_index.md R170, R171, R172). -/
def Obligations.TimerInstructionsMoveAByte : Prop :=
  ∀ (x : Reg) (s : State),
    (∃ t, exec (.ldVxDT x) s = .next t ∧ t.reg x = s.dt ∧ RegsOnly (· = x) s t) ∧
    (∃ t, exec (.ldDT x) s = .next t ∧ t = { s with dt := s.reg x } ∧ ∀ a, t.mem.read a = s.mem.read a) ∧
    (∃ t, exec (.ldST x) s = .next t ∧ t = { s with st := s.reg x } ∧ ∀ a, t.mem.read a = s.mem.read a)

/-- `LD Vx, K` never waits: it writes the low 8 bits of the key code, whatever the buffer holds, and leaves the buffer
and `pc` alone (47_timer_key_index.md R173). -/
def Obligations.KeyReadNeverWaits : Prop :=
  ∀ (x : Reg) (s : State), ∃ t, exec (.ldVxK x) s = .next t ∧ (t.reg x).toNat = s.key % 256 ∧ RegsOnly (· = x) s t

/-- `ADD I, Vx` adds modulo 65536 and `LD F, Vx` sets `I` to five times the register, with no flag and no fault
(47_timer_key_index.md R174, R175). -/
def Obligations.IndexArithmetic : Prop :=
  ∀ (x : Reg) (s : State),
    (∃ t, exec (.addI x) s = .next t ∧ t.i.toNat = (s.i.toNat + (s.reg x).toNat) % 65536 ∧ t = { s with i := t.i } ∧
      ∀ a, t.mem.read a = s.mem.read a) ∧
    (∃ t, exec (.ldF x) s = .next t ∧ t.i.toNat = 5 * (s.reg x).toNat ∧ t = { s with i := t.i } ∧
      ∀ a, t.mem.read a = s.mem.read a)

/-- `LD B, Vx` stores the hundreds, tens and units of `V[x]` at `I`, `I+1`, `I+2`; past `0xFFF` it faults and stores
nothing (48_memory_transfer.md R180). -/
def Obligations.BcdStoresTheDigits : Prop :=
  ∀ (x : Reg) (s : State),
    (s.i.toNat + 2 ≤ 0xFFF → ∃ t, exec (.ldB x) s = .next t ∧ BytesOnly (s.dataAddr 0) 3 s t ∧
      (t.mem.read (s.dataAddr 0)).toNat = (s.reg x).toNat / 100 ∧
      (t.mem.read (s.dataAddr 1)).toNat = (s.reg x).toNat / 10 % 10 ∧
      (t.mem.read (s.dataAddr 2)).toNat = (s.reg x).toNat % 10) ∧
    (s.halted = false → 0xFFF < s.i.toNat + 2 →
      exec (.ldB x) s = .next (s.faulted (.memoryFault .write (s.i.toNat + 2)) (.ldB x)))

/-- `LD [I], Vx` stores registers 0 to `x` at `I` to `I + x` and nothing else; past `0xFFF` it faults and stores nothing
(48_memory_transfer.md R181). -/
def Obligations.StoreWritesTheRegisterRun : Prop :=
  ∀ (x : Reg) (s : State),
    (s.i.toNat + x.val ≤ 0xFFF → ∃ t, exec (.storeRegs x) s = .next t ∧ BytesOnly (s.dataAddr 0) (x.val + 1) s t ∧
      ∀ k : Reg, k ≤ x → t.mem.read (s.dataAddr k.val) = s.reg k) ∧
    (s.halted = false → 0xFFF < s.i.toNat + x.val →
      exec (.storeRegs x) s = .next (s.faulted (.memoryFault .write (s.i.toNat + x.val)) (.storeRegs x)))

/-- `LD Vx, [I]` loads registers 0 to `x` from `I` to `I + x` and nothing else; past `0xFFF` it faults and loads nothing
(48_memory_transfer.md R182). -/
def Obligations.LoadReadsTheRegisterRun : Prop :=
  ∀ (x : Reg) (s : State),
    (s.i.toNat + x.val ≤ 0xFFF → ∃ t, exec (.loadRegs x) s = .next t ∧ RegsOnly (· ≤ x) s t ∧
      ∀ k : Reg, k ≤ x → t.reg k = s.mem.read (s.dataAddr k.val)) ∧
    (s.halted = false → 0xFFF < s.i.toNat + x.val →
      exec (.loadRegs x) s = .next (s.faulted (.memoryFault .read (s.i.toNat + x.val)) (.loadRegs x)))

/-- Storing a run of registers and loading it back from the same `I`, whatever the registers hold by then, reproduces
them (48_memory_transfer.md R182; 95_test_vectors.md S5). -/
def Obligations.StoreThenLoadRoundTrip : Prop :=
  ∀ (x : Reg) (s t : State) (v : Vector Byte 16), s.i.toNat + x.val ≤ 0xFFF → exec (.storeRegs x) s = .next t →
    ∃ u, exec (.loadRegs x) { t with v := v } = .next u ∧ u.i = s.i ∧ ∀ k : Reg, k ≤ x → u.reg k = s.reg k

/-! ## The debug monitor

That the waiting lines stand in State, and that one step obeys one of them, is the model's choice (log entry 7). -/

/-- A hold is a full stop: a command that only inspects, or no line at all, leaves timers, registers, memory, `pc` and
all else of the core as they are (60_exceptions.md R225, R222). -/
def Obligations.HeldCoreStandsStill : Prop :=
  ∀ s : State, Ready s → Prompting s →
    (s.monitor.console = [] → ∃ t, step s = .next t ∧ t = { s with monitor := t.monitor }) ∧
    (∀ c rest, s.monitor.console = c :: rest →
      c ≠ .next → c ≠ .run → c ≠ .reset → c ≠ .quit → (∀ a, c ≠ .goto a) →
      ∃ t, step s = .next t ∧ t = { s with monitor := t.monitor } ∧ t.monitor.console = rest)

/-- A breakpoint at `pc`, or a watchpoint equal to the word there, forces a prompt even while Ignoring: no tick runs,
the timers stand, and the monitor is Armed (60_exceptions.md R220). -/
def Obligations.HitForcesAPrompt : Prop :=
  ∀ s : State, Ready s → s.monitor.enabled = true → s.monitor.console = [] →
    ((∃ e ∈ s.monitor.breakpoints, e.value = s.pc) ∨
      (s.pc.toNat + 1 ≤ 0xFFF ∧
        ∃ e ∈ s.monitor.watchpoints, e.value = wordOfBytes (s.mem.read s.pc.toNat) (s.mem.read (s.pc.toNat + 1)))) →
    ∃ t, step s = .next t ∧ t.monitor.mode = .armed ∧ t = { s with monitor := t.monitor }

/-- What the commands do that act on the core: `g` sets `pc` modulo 65536 and runs no tick, `n` and `r` let one tick
run and leave the monitor Armed or Ignoring, `q` ends the run (60_exceptions.md R222). -/
def Obligations.MonitorCommandsActOnTheCore : Prop :=
  ∀ (s : State) (rest : List Command), Ready s → Prompting s →
    (∀ a, s.monitor.console = .goto a :: rest →
      step s = .next { s.lineTaken rest with pc := BitVec.ofNat 16 (a % 65536) }) ∧
    (s.monitor.console = .next :: rest → step s = tick (s.lineTaken rest)) ∧
    (s.monitor.console = .run :: rest →
      step s = tick { s.lineTaken rest with monitor := { (s.lineTaken rest).monitor with mode := .ignoring } }) ∧
    (s.monitor.console = .quit :: rest → step s = .next { s.lineTaken rest with ended := true })

/-- `n` runs exactly one tick and the monitor prompts again, whatever its lists say (60_exceptions.md R222). -/
def Obligations.NextPromptsAgain : Prop :=
  ∀ (s t : State) (rest : List Command), Ready s → Prompting s → s.monitor.console = .next :: rest →
    step s = .next t → Prompting t ∧ t.monitor.console = rest ∧ tick (s.lineTaken rest) = .next t

/-- `R` emits one clear event and resets the core; the lists, the mode and memory above the font stay, so the loaded
program starts again (60_exceptions.md R224). -/
def Obligations.MonitorResetRestartsTheProgram : Prop :=
  ∀ (s : State) (rest : List Command), Ready s → Prompting s → s.monitor.console = .reset :: rest →
    ∃ t, step s = .next t ∧ t.events = s.events ++ [.clear] ∧ t.pc = 0x0200#16 ∧ t.sp = 0 ∧ t.i = 0#16 ∧
      (∀ x, t.reg x = 0x00#8) ∧ t.dt = 0x00#8 ∧ t.st = 0x00#8 ∧ t.halted = false ∧ t.fault = none ∧
      t.key = s.params.keyEmpty ∧ t.stack = s.stack ∧ t.params = s.params ∧
      (∀ a (h : a < 80), t.mem.read a = s.params.font[a]) ∧
      t.monitor.breakpoints = s.monitor.breakpoints ∧ t.monitor.watchpoints = s.monitor.watchpoints ∧
      t.monitor.mode = .armed ∧ ∀ a, 80 ≤ a → t.mem.read a = s.mem.read a

/-- A registration appends one entry to a list that is not full; the 256th is refused and reported, and the list and
the core stay as they are (60_exceptions.md R223). -/
def Obligations.FullListsRefuse : Prop :=
  ∀ (s : State) (rest : List Command) (w : Word), Ready s → Prompting s →
    (s.monitor.console = .breakpoint w :: rest → ∃ t, step s = .next t ∧ t = { s with monitor := t.monitor } ∧
      t.monitor.watchpoints = s.monitor.watchpoints ∧
      (s.monitor.breakpoints.length < 255 →
        (∃ e, t.monitor.breakpoints = s.monitor.breakpoints ++ [e] ∧ e.value = w) ∧
        t.monitor.reports = s.monitor.reports) ∧
      (255 ≤ s.monitor.breakpoints.length →
        t.monitor.breakpoints = s.monitor.breakpoints ∧ t.monitor.reports = s.monitor.reports ++ [.breakpointsFull w])) ∧
    (s.monitor.console = .watchpoint w :: rest → ∃ t, step s = .next t ∧ t = { s with monitor := t.monitor } ∧
      t.monitor.breakpoints = s.monitor.breakpoints ∧
      (s.monitor.watchpoints.length < 255 →
        (∃ e, t.monitor.watchpoints = s.monitor.watchpoints ++ [e] ∧ e.value = w) ∧
        t.monitor.reports = s.monitor.reports) ∧
      (255 ≤ s.monitor.watchpoints.length →
        t.monitor.watchpoints = s.monitor.watchpoints ∧ t.monitor.reports = s.monitor.reports ++ [.watchpointsFull w]))

/-- With the monitor Ignoring and no hit, a step is the tick it would be without the monitor: same outcome, the
monitor's own state apart (60_exceptions.md R226, R220). -/
def Obligations.IgnoringMonitorChangesNothing : Prop :=
  ∀ (s : State) (off : Monitor), Ready s → s.monitor.mode = .ignoring → s.monitorHit = false → off.enabled = false →
    ∃ t, step s = .next t ∧ step { s with monitor := off } = .next { t with monitor := off }
end

