-- ==== Sys2Proof/Laws/Decode.lean ====
section
/-! SUPPORT. Fields and formats as numbers: what each field view of a word is, and what word each format makes. -/

namespace Sys2Proof

/-! ## The fields of a word (30_encoding.md R71, R72) -/

theorem extractLsb'_toNat_eq (w : Word) (s n : Nat) : (w.extractLsb' s n).toNat = w.toNat / 2 ^ s % 2 ^ n := by
  rw [BitVec.extractLsb'_toNat, Nat.shiftRight_eq_div_pow]

theorem fieldsOf_op (w : Word) : (fieldsOf w).op.toNat = w.toNat / 4096 := by
  have := w.isLt
  simp only [fieldsOf, extractLsb'_toNat_eq]
  omega

theorem fieldsOf_x (w : Word) : (fieldsOf w).x.val = w.toNat / 256 % 16 := extractLsb'_toNat_eq w 8 4

theorem fieldsOf_y (w : Word) : (fieldsOf w).y.val = w.toNat / 16 % 16 := extractLsb'_toNat_eq w 4 4

theorem fieldsOf_n (w : Word) : (fieldsOf w).n.toNat = w.toNat % 16 := by
  simp only [fieldsOf, extractLsb'_toNat_eq]
  omega

theorem fieldsOf_kk (w : Word) : (fieldsOf w).kk.toNat = w.toNat % 256 := by
  simp only [fieldsOf, extractLsb'_toNat_eq]
  omega

theorem fieldsOf_addr (w : Word) : (fieldsOf w).addr.toNat = w.toNat % 4096 := by
  simp only [fieldsOf, extractLsb'_toNat_eq]
  omega

/-! ## The words of the formats (30_encoding.md R71) -/

theorem toNat_append_eq {m n : Nat} (a : BitVec m) (b : BitVec n) : (a ++ b).toNat = a.toNat * 2 ^ n + b.toNat := by
  rw [BitVec.toNat_append, ← Nat.shiftLeft_add_eq_or_of_lt b.isLt, Nat.shiftLeft_eq]

@[simp] theorem regField_toNat (r : Reg) : (regField r).toNat = r.val := rfl

theorem encodeAddr_toNat (op : Nibble) (addr : Addr) : (encodeAddr op addr).toNat = op.toNat * 4096 + addr.toNat :=
  toNat_append_eq op addr

theorem encodeImm_toNat (op : Nibble) (x : Reg) (kk : Byte) :
    (encodeImm op x kk).toNat = op.toNat * 4096 + x.val * 256 + kk.toNat := by
  have h1 : (encodeImm op x kk).toNat = op.toNat * 2 ^ 12 + (regField x ++ kk).toNat := toNat_append_eq op _
  have h2 : (regField x ++ kk).toNat = x.val * 2 ^ 8 + kk.toNat := toNat_append_eq (regField x) kk
  rw [h1, h2]
  omega

theorem encodeRegs_toNat (op : Nibble) (x y : Reg) (n : Nibble) :
    (encodeRegs op x y n).toNat = op.toNat * 4096 + x.val * 256 + y.val * 16 + n.toNat := by
  have h1 : (encodeRegs op x y n).toNat = op.toNat * 2 ^ 12 + (regField x ++ (regField y ++ n)).toNat :=
    toNat_append_eq op _
  have h2 : (regField x ++ (regField y ++ n)).toNat = x.val * 2 ^ 8 + (regField y ++ n).toNat :=
    toNat_append_eq (regField x) _
  have h3 : (regField y ++ n).toNat = y.val * 2 ^ 4 + n.toNat := toNat_append_eq (regField y) n
  rw [h1, h2, h3]
  omega

/-! ## The fields of each format -/

/-- Two field views are equal when their numbers are. -/
theorem Fields.ext_toNat (f g : Fields) (h1 : f.op.toNat = g.op.toNat) (h2 : f.x.val = g.x.val)
    (h3 : f.y.val = g.y.val) (h4 : f.n.toNat = g.n.toNat) (h5 : f.kk.toNat = g.kk.toNat)
    (h6 : f.addr.toNat = g.addr.toNat) : f = g := by
  cases f; cases g
  simp only [Fields.mk.injEq]
  exact ⟨BitVec.eq_of_toNat_eq h1, Fin.ext h2, Fin.ext h3, BitVec.eq_of_toNat_eq h4, BitVec.eq_of_toNat_eq h5,
    BitVec.eq_of_toNat_eq h6⟩

/-- The fields of `op addr` that its instructions use. -/
theorem fieldsOf_encodeAddr (op : Nibble) (addr : Addr) :
    (fieldsOf (encodeAddr op addr)).op = op ∧ (fieldsOf (encodeAddr op addr)).addr = addr := by
  have h1 := op.isLt
  have h2 := addr.isLt
  constructor <;> apply BitVec.eq_of_toNat_eq <;> simp only [fieldsOf_op, fieldsOf_addr, encodeAddr_toNat] <;> omega

/-- The fields of `op x kk` that its instructions use. -/
theorem fieldsOf_encodeImm (op : Nibble) (x : Reg) (kk : Byte) :
    (fieldsOf (encodeImm op x kk)).op = op ∧ (fieldsOf (encodeImm op x kk)).x = x ∧
      (fieldsOf (encodeImm op x kk)).kk = kk := by
  have h1 := op.isLt
  have h2 := x.isLt
  have h3 := kk.isLt
  refine ⟨BitVec.eq_of_toNat_eq ?_, Fin.ext ?_, BitVec.eq_of_toNat_eq ?_⟩ <;>
    simp only [fieldsOf_op, fieldsOf_x, fieldsOf_kk, encodeImm_toNat] <;> omega

/-- The fields of `op x y n` that its instructions use. -/
theorem fieldsOf_encodeRegs (op : Nibble) (x y : Reg) (n : Nibble) :
    (fieldsOf (encodeRegs op x y n)).op = op ∧ (fieldsOf (encodeRegs op x y n)).x = x ∧
      (fieldsOf (encodeRegs op x y n)).y = y ∧ (fieldsOf (encodeRegs op x y n)).n = n := by
  have h1 := op.isLt
  have h2 := x.isLt
  have h3 := y.isLt
  have h4 := n.isLt
  refine ⟨BitVec.eq_of_toNat_eq ?_, Fin.ext ?_, Fin.ext ?_, BitVec.eq_of_toNat_eq ?_⟩ <;>
    simp only [fieldsOf_op, fieldsOf_x, fieldsOf_y, fieldsOf_n, encodeRegs_toNat] <;> omega

/-! ## Bytes and words -/

theorem wordOfBytes_toNat (hi lo : Byte) : (wordOfBytes hi lo).toNat = hi.toNat * 256 + lo.toNat :=
  toNat_append_eq hi lo

/-- The first two bytes decide (30_encoding.md R70). -/
theorem decodeBytes_cons (hi lo : Byte) (rest : List Byte) :
    decodeBytes (hi :: lo :: rest) =
      match decodeWord (wordOfBytes hi lo) with
      | .ok i => .ok (i, rest)
      | .error r => .error r := rfl

end Sys2Proof
end

