-- ==== Sys2Proof/Laws/Display.lean ====
section
/-! SUPPORT. What one row of a sprite emits, and what lighting a pixel of the sink's grid does. -/

namespace Sys2Proof.Machine

/-- A row emits a point for each of its set bits and no other, bit 7 in the column `vx` (45_draw.md R150, R151). -/
theorem mem_rowPoints (vx py : Nat) (row : Byte) (e : DisplayEvent) :
    e ∈ rowPoints vx py row ↔ ∃ c, c < 8 ∧ row.getLsbD (7 - c) = true ∧ e = .point (vx + c) py := by
  simp only [rowPoints, List.mem_filterMap, List.mem_range, Option.ite_none_right_eq_some, Option.some.injEq]
  constructor <;> rintro ⟨c, h1, h2, h3⟩ <;> exact ⟨c, h1, h2, h3.symm⟩

/-- A lit pixel is lit, and every other pixel is as it was. -/
theorem Picture.get_light (g : Picture) (px a : Fin 64) (py b : Fin 32) :
    ((g.light px py).get a).get b = if a = px ∧ b = py then true else (g.get a).get b := by
  simp only [Picture.light, Vector.get_eq_getElem, Vector.getElem_set]
  by_cases h : a = px
  · subst h
    simp only [if_true, Vector.getElem_set, true_and, Fin.val_inj, eq_comm]
  · rw [if_neg (fun h' => h (Fin.ext h'.symm)), if_neg (fun h' => h h'.1)]

end Sys2Proof.Machine
end

