-- ==== Sys2Proof/Laws/Memory.lean ====
section
/-! SUPPORT. What the memory operations do: a read after a write, a run of writes, the canonical form. The read laws
need no canonical form, so they hold of every state. -/

namespace Sys2Proof.Machine

theorem Memory.lookupByte_putByte (m : Memory) (a b : Nat) (v : Byte) :
    Memory.lookupByte (m.putByte a v) b = if b = a then some v else Memory.lookupByte m b := by
  induction m with
  | nil => simp [Memory.putByte, Memory.lookupByte, eq_comm]
  | cons c m ih =>
    obtain ⟨d, u⟩ := c
    simp only [Memory.putByte]
    split
    · simp only [Memory.lookupByte]; split_ifs <;> first | rfl | omega
    · split
      · subst_vars; simp only [Memory.lookupByte]; split_ifs <;> first | rfl | omega
      · simp only [Memory.lookupByte, ih]; split_ifs <;> first | rfl | omega

theorem Memory.lookupByte_dropByte (m : Memory) (a b : Nat) :
    Memory.lookupByte (m.dropByte a) b = if b = a then none else Memory.lookupByte m b := by
  induction m with
  | nil => simp [Memory.dropByte, Memory.lookupByte]
  | cons c m ih =>
    obtain ⟨d, u⟩ := c
    simp only [Memory.dropByte] at ih ⊢
    by_cases hd : d = a
    · subst hd; simp only [List.filter, bne_self_eq_false, ih, Memory.lookupByte]; split_ifs <;> first | rfl | omega
    · have : (d != a) = true := by simpa using hd
      simp only [List.filter, this, Memory.lookupByte, ih]; split_ifs <;> first | rfl | omega

/-- The basic law: a byte written inside memory is read back, and every other byte stays. -/
theorem Memory.read_write (m : Memory) (a b : Nat) (v : Byte) (ha : a < Config.memSize) :
    (m.write a v).read b = if b = a then v else m.read b := by
  simp only [Memory.write, if_pos ha, Memory.read]
  by_cases hv : v = Memory.unlisted a
  · rw [if_pos hv, Memory.lookupByte_dropByte]
    split_ifs with hb
    · subst hb; simp [hv]
    · rfl
  · rw [if_neg hv, Memory.lookupByte_putByte]
    split_ifs <;> rfl

/-- Nothing exists above `0xFFF`. -/
theorem Memory.write_outside (m : Memory) (a : Nat) (v : Byte) (ha : ¬ a < Config.memSize) : m.write a v = m := by
  simp only [Memory.write, if_neg ha]

/-- A run of writes inside memory: each byte of the run is read back at its place, and every other byte stays. -/
theorem Memory.read_writeRun (vs : List Byte) (m : Memory) (a b : Nat) (h : a + vs.length ≤ Config.memSize) :
    (m.writeRun a vs).read b = if a ≤ b then vs.getD (b - a) (m.read b) else m.read b := by
  induction vs generalizing m a with
  | nil => simp [Memory.writeRun]
  | cons v vs ih =>
    simp only [List.length_cons] at h
    rw [Memory.writeRun, ih _ _ (by omega), Memory.read_write _ _ _ _ (by omega)]
    by_cases h1 : a + 1 ≤ b
    · obtain ⟨k, rfl⟩ : ∃ k, b = a + 1 + k := ⟨b - (a + 1), by omega⟩
      have e1 : a + 1 + k - (a + 1) = k := by omega
      have e2 : a + 1 + k - a = k + 1 := by omega
      have c1 : a ≤ a + 1 + k := by omega
      have c2 : ¬ a + 1 + k = a := by omega
      simp only [if_pos h1, if_pos c1, if_neg c2, e1, e2, List.getD_cons_succ]
    · rw [if_neg h1]
      by_cases h2 : b = a
      · subst h2; simp
      · rw [if_neg h2, if_neg (by omega)]

/-- Outside the run every byte stays. -/
theorem Memory.read_writeRun_outside (vs : List Byte) (m : Memory) (a b : Nat) (h : a + vs.length ≤ Config.memSize)
    (hb : ¬ (a ≤ b ∧ b < a + vs.length)) : (m.writeRun a vs).read b = m.read b := by
  rw [Memory.read_writeRun vs m a b h]
  split_ifs with h1
  · rw [List.getD_eq_default _ _ (by omega)]
  · rfl

/-- Inside the run byte `k` is read at `a + k`. -/
theorem Memory.read_writeRun_inside (vs : List Byte) (m : Memory) (a k : Nat) (h : a + vs.length ≤ Config.memSize)
    (hk : k < vs.length) : (m.writeRun a vs).read (a + k) = vs[k] := by
  rw [Memory.read_writeRun vs m a _ h, if_pos (by omega)]
  simp [List.getElem?_eq_getElem hk]

/-! ## The canonical form -/

theorem Memory.mem_putByte (m : Memory) (a : Nat) (v : Byte) (c : Host.Cell) (h : c ∈ m.putByte a v) :
    c = (a, v) ∨ c ∈ m := by
  induction m with
  | nil => simpa [Memory.putByte] using h
  | cons d m ih =>
    obtain ⟨b, u⟩ := d
    simp only [Memory.putByte] at h
    split at h
    · simpa using h
    · split at h
      · rcases List.mem_cons.1 h with h | h
        · exact .inl h
        · exact .inr (List.mem_cons_of_mem _ h)
      · rcases List.mem_cons.1 h with h | h
        · exact .inr (h ▸ List.mem_cons_self)
        · exact (ih h).imp_right (List.mem_cons_of_mem _)

theorem Memory.pairwise_putByte (m : Memory) (a : Nat) (v : Byte) (h : m.Pairwise (fun c d => c.1 < d.1)) :
    (m.putByte a v).Pairwise (fun c d => c.1 < d.1) := by
  induction m with
  | nil => simp [Memory.putByte]
  | cons d m ih =>
    obtain ⟨b, u⟩ := d
    obtain ⟨h1, h2⟩ := List.pairwise_cons.1 h
    simp only [Memory.putByte]
    split
    · rename_i hab
      refine List.pairwise_cons.2 ⟨fun c hc => ?_, h⟩
      rcases List.mem_cons.1 hc with rfl | hc
      · exact hab
      · exact lt_trans hab (h1 c hc)
    · split
      · rename_i hab
        exact List.pairwise_cons.2 ⟨fun c hc => hab ▸ h1 c hc, h2⟩
      · refine List.pairwise_cons.2 ⟨fun c hc => ?_, ih h2⟩
        rcases Memory.mem_putByte m a v c hc with rfl | hc
        · show b < a; omega
        · exact h1 c hc

/-- A write keeps the canonical form. -/
theorem Memory.wf_write (m : Memory) (a : Nat) (v : Byte) (h : m.wf) : (m.write a v).wf := by
  obtain ⟨h1, h2⟩ := h
  simp only [Memory.write]
  split
  · rename_i ha
    split
    · exact ⟨h1.filter _, fun c hc => h2 c (List.mem_filter.1 hc).1⟩
    · rename_i hv
      refine ⟨Memory.pairwise_putByte m a v h1, fun c hc => ?_⟩
      rcases Memory.mem_putByte m a v c hc with rfl | hc
      · exact ⟨ha, hv⟩
      · exact h2 c hc
  · exact ⟨h1, h2⟩

/-- A run of writes keeps the canonical form. -/
theorem Memory.wf_writeRun (vs : List Byte) (m : Memory) (a : Nat) (h : m.wf) : (m.writeRun a vs).wf := by
  induction vs generalizing m a with
  | nil => exact h
  | cons v vs ih => exact ih _ _ (Memory.wf_write m a v h)

theorem Memory.lookupByte_mem (m : Memory) (c : Host.Cell) (h : m.Pairwise (fun c d => c.1 < d.1)) (hc : c ∈ m) :
    Memory.lookupByte m c.1 = some c.2 := by
  induction m with
  | nil => cases hc
  | cons d m ih =>
    obtain ⟨b, u⟩ := d
    obtain ⟨h1, h2⟩ := List.pairwise_cons.1 h
    rcases List.mem_cons.1 hc with rfl | hc
    · simp [Memory.lookupByte]
    · have := h1 c hc
      simp only [Memory.lookupByte, if_neg (show ¬ b = c.1 by simp only at this; omega)]
      exact ih h2 hc

theorem Memory.mem_of_lookupByte (m : Memory) (a : Nat) (v : Byte) (h : Memory.lookupByte m a = some v) :
    (a, v) ∈ m := by
  induction m with
  | nil => cases h
  | cons d m ih =>
    obtain ⟨b, u⟩ := d
    simp only [Memory.lookupByte] at h
    split at h
    · rename_i hb; cases h; subst hb; exact List.mem_cons_self
    · exact List.mem_cons_of_mem _ (ih h)

/-- In the canonical form an address is listed with a byte exactly if it reads as that byte and unlisted would not. -/
theorem Memory.mem_iff (m : Memory) (h : m.wf) (c : Host.Cell) :
    c ∈ m ↔ m.read c.1 = c.2 ∧ c.2 ≠ Memory.unlisted c.1 := by
  constructor
  · intro hc
    exact ⟨by simp [Memory.read, Memory.lookupByte_mem m c h.1 hc], (h.2 c hc).2⟩
  · rintro ⟨h1, h2⟩
    simp only [Memory.read] at h1
    cases hl : Memory.lookupByte m c.1 with
    | none => simp [hl] at h1; exact absurd h1.symm h2
    | some u =>
      simp [hl] at h1; subst h1
      exact Memory.mem_of_lookupByte m c.1 _ hl

/-- Equal memories are equal data: canonical memories that read the same at every address are the same list. -/
theorem Memory.ext_of_read (m n : Memory) (hm : m.wf) (hn : n.wf) (h : ∀ a, m.read a = n.read a) : m = n := by
  have hs : ∀ p : Memory, p.wf → p.Pairwise (fun c d => c.1 < d.1) := fun p hp => hp.1
  have hmem : ∀ c, c ∈ m ↔ c ∈ n := fun c => by rw [Memory.mem_iff m hm, Memory.mem_iff n hn, h]
  have nd : ∀ p : Memory, p.wf → p.Nodup := fun p hp =>
    (hs p hp).imp (fun {c d} hlt heq => by subst heq; exact lt_irrefl _ hlt)
  have hp : m.Perm n := (List.perm_ext_iff_of_nodup (nd m hm) (nd n hn)).2 hmem
  exact hp.eq_of_pairwise (fun a b _ _ h1 h2 => absurd h1 (by omega)) (hs m hm) (hs n hn)

/-- What the memory of a function lists. -/
theorem Memory.mem_ofFn (n : Nat) (f : Nat → Byte) (c : Host.Cell) :
    c ∈ Memory.ofFn n f ↔ c.1 < n ∧ c.2 = f c.1 ∧ c.2 ≠ Memory.unlisted c.1 := by
  obtain ⟨a, v⟩ := c
  simp only [Memory.ofFn, List.mem_filterMap, List.mem_range, Option.ite_none_left_eq_some, Option.some.injEq,
    Prod.mk.injEq]
  constructor
  · rintro ⟨b, hb, hne, rfl, rfl⟩; exact ⟨hb, rfl, hne⟩
  · rintro ⟨h, rfl, hne⟩; exact ⟨a, h, hne, rfl, rfl⟩

/-- The memory of a function is canonical. -/
theorem Memory.wf_ofFn (n : Nat) (f : Nat → Byte) (hn : n ≤ Config.memSize) : (Memory.ofFn n f).wf := by
  constructor
  · simp only [Memory.ofFn]
    refine List.Pairwise.filterMap _ (R := (· < ·)) ?_ List.pairwise_lt_range
    intro a b hab c hc d hd
    simp only [Option.ite_none_left_eq_some, Option.some.injEq] at hc hd
    obtain ⟨-, rfl⟩ := hc; obtain ⟨-, rfl⟩ := hd; exact hab
  · intro c hc
    obtain ⟨h1, -, h3⟩ := (Memory.mem_ofFn n f c).1 hc
    exact ⟨lt_of_lt_of_le h1 hn, h3⟩

/-- The memory of a function holds the function's bytes. -/
theorem Memory.read_ofFn (n : Nat) (f : Nat → Byte) (a : Nat) (hn : n ≤ Config.memSize) (ha : a < n) :
    (Memory.ofFn n f).read a = f a := by
  by_cases h : f a = Memory.unlisted a
  · cases hl : Memory.lookupByte (Memory.ofFn n f) a with
    | none => simp [Memory.read, hl, h]
    | some v =>
      obtain ⟨-, h2, h3⟩ := (Memory.mem_ofFn n f _).1 (Memory.mem_of_lookupByte _ _ _ hl)
      exact absurd (h2.trans h) h3
  · exact ((Memory.mem_iff _ (Memory.wf_ofFn n f hn) (a, f a)).1 ((Memory.mem_ofFn n f _).2 ⟨ha, rfl, h⟩)).1

end Sys2Proof.Machine
end

