-- ==== Sys2Proof/Laws/State.lean ====
section
/-! SUPPORT. One lemma per field per update of the state, so that no later proof unfolds a record update. -/

namespace Sys2Proof.Machine

/-! ## setReg -/

@[simp] theorem State.setReg_v (s : State) (x : Reg) (b : Byte) : (s.setReg x b).v = s.v.set x.val b x.isLt := rfl
@[simp] theorem State.setReg_i (s : State) (x : Reg) (b : Byte) : (s.setReg x b).i = s.i := rfl
@[simp] theorem State.setReg_pc (s : State) (x : Reg) (b : Byte) : (s.setReg x b).pc = s.pc := rfl
@[simp] theorem State.setReg_sp (s : State) (x : Reg) (b : Byte) : (s.setReg x b).sp = s.sp := rfl
@[simp] theorem State.setReg_stack (s : State) (x : Reg) (b : Byte) : (s.setReg x b).stack = s.stack := rfl
@[simp] theorem State.setReg_mem (s : State) (x : Reg) (b : Byte) : (s.setReg x b).mem = s.mem := rfl
@[simp] theorem State.setReg_dt (s : State) (x : Reg) (b : Byte) : (s.setReg x b).dt = s.dt := rfl
@[simp] theorem State.setReg_st (s : State) (x : Reg) (b : Byte) : (s.setReg x b).st = s.st := rfl
@[simp] theorem State.setReg_key (s : State) (x : Reg) (b : Byte) : (s.setReg x b).key = s.key := rfl
@[simp] theorem State.setReg_halted (s : State) (x : Reg) (b : Byte) : (s.setReg x b).halted = s.halted := rfl
@[simp] theorem State.setReg_fault (s : State) (x : Reg) (b : Byte) : (s.setReg x b).fault = s.fault := rfl
@[simp] theorem State.setReg_events (s : State) (x : Reg) (b : Byte) : (s.setReg x b).events = s.events := rfl
@[simp] theorem State.setReg_monitor (s : State) (x : Reg) (b : Byte) : (s.setReg x b).monitor = s.monitor := rfl
@[simp] theorem State.setReg_params (s : State) (x : Reg) (b : Byte) : (s.setReg x b).params = s.params := rfl
@[simp] theorem State.setReg_draws (s : State) (x : Reg) (b : Byte) : (s.setReg x b).draws = s.draws := rfl
@[simp] theorem State.setReg_schedule (s : State) (x : Reg) (b : Byte) : (s.setReg x b).schedule = s.schedule := rfl
@[simp] theorem State.setReg_ended (s : State) (x : Reg) (b : Byte) : (s.setReg x b).ended = s.ended := rfl

/-! ## advance -/

@[simp] theorem State.advance_v (s : State) : (s.advance).v = s.v := rfl
@[simp] theorem State.advance_i (s : State) : (s.advance).i = s.i := rfl
@[simp] theorem State.advance_pc (s : State) : (s.advance).pc = s.pc + 2 := rfl
@[simp] theorem State.advance_sp (s : State) : (s.advance).sp = s.sp := rfl
@[simp] theorem State.advance_stack (s : State) : (s.advance).stack = s.stack := rfl
@[simp] theorem State.advance_mem (s : State) : (s.advance).mem = s.mem := rfl
@[simp] theorem State.advance_dt (s : State) : (s.advance).dt = s.dt := rfl
@[simp] theorem State.advance_st (s : State) : (s.advance).st = s.st := rfl
@[simp] theorem State.advance_key (s : State) : (s.advance).key = s.key := rfl
@[simp] theorem State.advance_halted (s : State) : (s.advance).halted = s.halted := rfl
@[simp] theorem State.advance_fault (s : State) : (s.advance).fault = s.fault := rfl
@[simp] theorem State.advance_events (s : State) : (s.advance).events = s.events := rfl
@[simp] theorem State.advance_monitor (s : State) : (s.advance).monitor = s.monitor := rfl
@[simp] theorem State.advance_params (s : State) : (s.advance).params = s.params := rfl
@[simp] theorem State.advance_draws (s : State) : (s.advance).draws = s.draws := rfl
@[simp] theorem State.advance_schedule (s : State) : (s.advance).schedule = s.schedule := rfl
@[simp] theorem State.advance_ended (s : State) : (s.advance).ended = s.ended := rfl

/-! ## tickTimers -/

@[simp] theorem State.tickTimers_v (s : State) : (s.tickTimers).v = s.v := rfl
@[simp] theorem State.tickTimers_i (s : State) : (s.tickTimers).i = s.i := rfl
@[simp] theorem State.tickTimers_pc (s : State) : (s.tickTimers).pc = s.pc := rfl
@[simp] theorem State.tickTimers_sp (s : State) : (s.tickTimers).sp = s.sp := rfl
@[simp] theorem State.tickTimers_stack (s : State) : (s.tickTimers).stack = s.stack := rfl
@[simp] theorem State.tickTimers_mem (s : State) : (s.tickTimers).mem = s.mem := rfl
@[simp] theorem State.tickTimers_dt (s : State) : (s.tickTimers).dt = timerTick s.dt := rfl
@[simp] theorem State.tickTimers_st (s : State) : (s.tickTimers).st = timerTick s.st := rfl
@[simp] theorem State.tickTimers_key (s : State) : (s.tickTimers).key = s.key := rfl
@[simp] theorem State.tickTimers_halted (s : State) : (s.tickTimers).halted = s.halted := rfl
@[simp] theorem State.tickTimers_fault (s : State) : (s.tickTimers).fault = s.fault := rfl
@[simp] theorem State.tickTimers_events (s : State) : (s.tickTimers).events = s.events := rfl
@[simp] theorem State.tickTimers_monitor (s : State) : (s.tickTimers).monitor = s.monitor := rfl
@[simp] theorem State.tickTimers_params (s : State) : (s.tickTimers).params = s.params := rfl
@[simp] theorem State.tickTimers_draws (s : State) : (s.tickTimers).draws = s.draws := rfl
@[simp] theorem State.tickTimers_schedule (s : State) : (s.tickTimers).schedule = s.schedule := rfl
@[simp] theorem State.tickTimers_ended (s : State) : (s.tickTimers).ended = s.ended := rfl

/-! ## jump -/

@[simp] theorem State.jump_v (s : State) (w : Word) : (s.jump w).v = s.v := rfl
@[simp] theorem State.jump_i (s : State) (w : Word) : (s.jump w).i = s.i := rfl
@[simp] theorem State.jump_pc (s : State) (w : Word) : (s.jump w).pc = w := rfl
@[simp] theorem State.jump_sp (s : State) (w : Word) : (s.jump w).sp = s.sp := rfl
@[simp] theorem State.jump_stack (s : State) (w : Word) : (s.jump w).stack = s.stack := rfl
@[simp] theorem State.jump_mem (s : State) (w : Word) : (s.jump w).mem = s.mem := rfl
@[simp] theorem State.jump_dt (s : State) (w : Word) : (s.jump w).dt = s.dt := rfl
@[simp] theorem State.jump_st (s : State) (w : Word) : (s.jump w).st = s.st := rfl
@[simp] theorem State.jump_key (s : State) (w : Word) : (s.jump w).key = s.key := rfl
@[simp] theorem State.jump_halted (s : State) (w : Word) : (s.jump w).halted = s.halted := rfl
@[simp] theorem State.jump_fault (s : State) (w : Word) : (s.jump w).fault = s.fault := rfl
@[simp] theorem State.jump_events (s : State) (w : Word) : (s.jump w).events = s.events := rfl
@[simp] theorem State.jump_monitor (s : State) (w : Word) : (s.jump w).monitor = s.monitor := rfl
@[simp] theorem State.jump_params (s : State) (w : Word) : (s.jump w).params = s.params := rfl
@[simp] theorem State.jump_draws (s : State) (w : Word) : (s.jump w).draws = s.draws := rfl
@[simp] theorem State.jump_schedule (s : State) (w : Word) : (s.jump w).schedule = s.schedule := rfl
@[simp] theorem State.jump_ended (s : State) (w : Word) : (s.jump w).ended = s.ended := rfl

/-! ## skipIf -/

@[simp] theorem State.skipIf_v (s : State) (c : Bool) : (s.skipIf c).v = s.v := rfl
@[simp] theorem State.skipIf_i (s : State) (c : Bool) : (s.skipIf c).i = s.i := rfl
@[simp] theorem State.skipIf_pc (s : State) (c : Bool) : (s.skipIf c).pc = if c then s.pc + 2 else s.pc := rfl
@[simp] theorem State.skipIf_sp (s : State) (c : Bool) : (s.skipIf c).sp = s.sp := rfl
@[simp] theorem State.skipIf_stack (s : State) (c : Bool) : (s.skipIf c).stack = s.stack := rfl
@[simp] theorem State.skipIf_mem (s : State) (c : Bool) : (s.skipIf c).mem = s.mem := rfl
@[simp] theorem State.skipIf_dt (s : State) (c : Bool) : (s.skipIf c).dt = s.dt := rfl
@[simp] theorem State.skipIf_st (s : State) (c : Bool) : (s.skipIf c).st = s.st := rfl
@[simp] theorem State.skipIf_key (s : State) (c : Bool) : (s.skipIf c).key = s.key := rfl
@[simp] theorem State.skipIf_halted (s : State) (c : Bool) : (s.skipIf c).halted = s.halted := rfl
@[simp] theorem State.skipIf_fault (s : State) (c : Bool) : (s.skipIf c).fault = s.fault := rfl
@[simp] theorem State.skipIf_events (s : State) (c : Bool) : (s.skipIf c).events = s.events := rfl
@[simp] theorem State.skipIf_monitor (s : State) (c : Bool) : (s.skipIf c).monitor = s.monitor := rfl
@[simp] theorem State.skipIf_params (s : State) (c : Bool) : (s.skipIf c).params = s.params := rfl
@[simp] theorem State.skipIf_draws (s : State) (c : Bool) : (s.skipIf c).draws = s.draws := rfl
@[simp] theorem State.skipIf_schedule (s : State) (c : Bool) : (s.skipIf c).schedule = s.schedule := rfl
@[simp] theorem State.skipIf_ended (s : State) (c : Bool) : (s.skipIf c).ended = s.ended := rfl

/-! ## emit -/

@[simp] theorem State.emit_v (s : State) (es : List DisplayEvent) : (s.emit es).v = s.v := rfl
@[simp] theorem State.emit_i (s : State) (es : List DisplayEvent) : (s.emit es).i = s.i := rfl
@[simp] theorem State.emit_pc (s : State) (es : List DisplayEvent) : (s.emit es).pc = s.pc := rfl
@[simp] theorem State.emit_sp (s : State) (es : List DisplayEvent) : (s.emit es).sp = s.sp := rfl
@[simp] theorem State.emit_stack (s : State) (es : List DisplayEvent) : (s.emit es).stack = s.stack := rfl
@[simp] theorem State.emit_mem (s : State) (es : List DisplayEvent) : (s.emit es).mem = s.mem := rfl
@[simp] theorem State.emit_dt (s : State) (es : List DisplayEvent) : (s.emit es).dt = s.dt := rfl
@[simp] theorem State.emit_st (s : State) (es : List DisplayEvent) : (s.emit es).st = s.st := rfl
@[simp] theorem State.emit_key (s : State) (es : List DisplayEvent) : (s.emit es).key = s.key := rfl
@[simp] theorem State.emit_halted (s : State) (es : List DisplayEvent) : (s.emit es).halted = s.halted := rfl
@[simp] theorem State.emit_fault (s : State) (es : List DisplayEvent) : (s.emit es).fault = s.fault := rfl
@[simp] theorem State.emit_events (s : State) (es : List DisplayEvent) : (s.emit es).events = s.events ++ es := rfl
@[simp] theorem State.emit_monitor (s : State) (es : List DisplayEvent) : (s.emit es).monitor = s.monitor := rfl
@[simp] theorem State.emit_params (s : State) (es : List DisplayEvent) : (s.emit es).params = s.params := rfl
@[simp] theorem State.emit_draws (s : State) (es : List DisplayEvent) : (s.emit es).draws = s.draws := rfl
@[simp] theorem State.emit_schedule (s : State) (es : List DisplayEvent) : (s.emit es).schedule = s.schedule := rfl
@[simp] theorem State.emit_ended (s : State) (es : List DisplayEvent) : (s.emit es).ended = s.ended := rfl

/-! ## raise -/

@[simp] theorem State.raise_v (s : State) (c : FaultCause) (p : Word) (w : Option Word) : (s.raise c p w).v = s.v := rfl
@[simp] theorem State.raise_i (s : State) (c : FaultCause) (p : Word) (w : Option Word) : (s.raise c p w).i = s.i := rfl
@[simp] theorem State.raise_pc (s : State) (c : FaultCause) (p : Word) (w : Option Word) : (s.raise c p w).pc = s.pc := rfl
@[simp] theorem State.raise_sp (s : State) (c : FaultCause) (p : Word) (w : Option Word) : (s.raise c p w).sp = s.sp := rfl
@[simp] theorem State.raise_stack (s : State) (c : FaultCause) (p : Word) (w : Option Word) : (s.raise c p w).stack = s.stack := rfl
@[simp] theorem State.raise_mem (s : State) (c : FaultCause) (p : Word) (w : Option Word) : (s.raise c p w).mem = s.mem := rfl
@[simp] theorem State.raise_dt (s : State) (c : FaultCause) (p : Word) (w : Option Word) : (s.raise c p w).dt = s.dt := rfl
@[simp] theorem State.raise_st (s : State) (c : FaultCause) (p : Word) (w : Option Word) : (s.raise c p w).st = s.st := rfl
@[simp] theorem State.raise_key (s : State) (c : FaultCause) (p : Word) (w : Option Word) : (s.raise c p w).key = s.key := rfl
@[simp] theorem State.raise_halted (s : State) (c : FaultCause) (p : Word) (w : Option Word) : (s.raise c p w).halted = true := rfl
@[simp] theorem State.raise_fault (s : State) (c : FaultCause) (p : Word) (w : Option Word) : (s.raise c p w).fault = if s.halted then s.fault else some ⟨c, p, w⟩ := rfl
@[simp] theorem State.raise_events (s : State) (c : FaultCause) (p : Word) (w : Option Word) : (s.raise c p w).events = s.events := rfl
@[simp] theorem State.raise_monitor (s : State) (c : FaultCause) (p : Word) (w : Option Word) : (s.raise c p w).monitor = s.monitor := rfl
@[simp] theorem State.raise_params (s : State) (c : FaultCause) (p : Word) (w : Option Word) : (s.raise c p w).params = s.params := rfl
@[simp] theorem State.raise_draws (s : State) (c : FaultCause) (p : Word) (w : Option Word) : (s.raise c p w).draws = s.draws := rfl
@[simp] theorem State.raise_schedule (s : State) (c : FaultCause) (p : Word) (w : Option Word) : (s.raise c p w).schedule = s.schedule := rfl
@[simp] theorem State.raise_ended (s : State) (c : FaultCause) (p : Word) (w : Option Word) : (s.raise c p w).ended = s.ended := rfl

/-! ## raiseIn -/

@[simp] theorem State.raiseIn_v (s : State) (c : FaultCause) (j : Instr) : (s.raiseIn c j).v = s.v := rfl
@[simp] theorem State.raiseIn_i (s : State) (c : FaultCause) (j : Instr) : (s.raiseIn c j).i = s.i := rfl
@[simp] theorem State.raiseIn_pc (s : State) (c : FaultCause) (j : Instr) : (s.raiseIn c j).pc = s.pc := rfl
@[simp] theorem State.raiseIn_sp (s : State) (c : FaultCause) (j : Instr) : (s.raiseIn c j).sp = s.sp := rfl
@[simp] theorem State.raiseIn_stack (s : State) (c : FaultCause) (j : Instr) : (s.raiseIn c j).stack = s.stack := rfl
@[simp] theorem State.raiseIn_mem (s : State) (c : FaultCause) (j : Instr) : (s.raiseIn c j).mem = s.mem := rfl
@[simp] theorem State.raiseIn_dt (s : State) (c : FaultCause) (j : Instr) : (s.raiseIn c j).dt = s.dt := rfl
@[simp] theorem State.raiseIn_st (s : State) (c : FaultCause) (j : Instr) : (s.raiseIn c j).st = s.st := rfl
@[simp] theorem State.raiseIn_key (s : State) (c : FaultCause) (j : Instr) : (s.raiseIn c j).key = s.key := rfl
@[simp] theorem State.raiseIn_halted (s : State) (c : FaultCause) (j : Instr) : (s.raiseIn c j).halted = true := rfl
@[simp] theorem State.raiseIn_fault (s : State) (c : FaultCause) (j : Instr) : (s.raiseIn c j).fault = if s.halted then s.fault else some ⟨c, s.pc - 2, some (encode j)⟩ := rfl
@[simp] theorem State.raiseIn_events (s : State) (c : FaultCause) (j : Instr) : (s.raiseIn c j).events = s.events := rfl
@[simp] theorem State.raiseIn_monitor (s : State) (c : FaultCause) (j : Instr) : (s.raiseIn c j).monitor = s.monitor := rfl
@[simp] theorem State.raiseIn_params (s : State) (c : FaultCause) (j : Instr) : (s.raiseIn c j).params = s.params := rfl
@[simp] theorem State.raiseIn_draws (s : State) (c : FaultCause) (j : Instr) : (s.raiseIn c j).draws = s.draws := rfl
@[simp] theorem State.raiseIn_schedule (s : State) (c : FaultCause) (j : Instr) : (s.raiseIn c j).schedule = s.schedule := rfl
@[simp] theorem State.raiseIn_ended (s : State) (c : FaultCause) (j : Instr) : (s.raiseIn c j).ended = s.ended := rfl

/-! ## resetCore -/

@[simp] theorem State.resetCore_v (s : State) : (s.resetCore).v = Vector.replicate 16 0x00#8 := rfl
@[simp] theorem State.resetCore_i (s : State) : (s.resetCore).i = 0x0000#16 := rfl
@[simp] theorem State.resetCore_pc (s : State) : (s.resetCore).pc = Config.entry := rfl
@[simp] theorem State.resetCore_sp (s : State) : (s.resetCore).sp = 0 := rfl
@[simp] theorem State.resetCore_stack (s : State) : (s.resetCore).stack = s.stack := rfl
@[simp] theorem State.resetCore_mem (s : State) : (s.resetCore).mem = s.mem.writeRun Config.fontBase s.params.font.toList := rfl
@[simp] theorem State.resetCore_dt (s : State) : (s.resetCore).dt = 0x00#8 := rfl
@[simp] theorem State.resetCore_st (s : State) : (s.resetCore).st = 0x00#8 := rfl
@[simp] theorem State.resetCore_key (s : State) : (s.resetCore).key = s.params.keyEmpty := rfl
@[simp] theorem State.resetCore_halted (s : State) : (s.resetCore).halted = false := rfl
@[simp] theorem State.resetCore_fault (s : State) : (s.resetCore).fault = none := rfl
@[simp] theorem State.resetCore_events (s : State) : (s.resetCore).events = s.events := rfl
@[simp] theorem State.resetCore_monitor (s : State) : (s.resetCore).monitor = s.monitor := rfl
@[simp] theorem State.resetCore_params (s : State) : (s.resetCore).params = s.params := rfl
@[simp] theorem State.resetCore_draws (s : State) : (s.resetCore).draws = s.draws := rfl
@[simp] theorem State.resetCore_schedule (s : State) : (s.resetCore).schedule = s.schedule := rfl
@[simp] theorem State.resetCore_ended (s : State) : (s.resetCore).ended = s.ended := rfl

/-! ## pressKey -/

@[simp] theorem State.pressKey_v (s : State) (code : Nat) : (s.pressKey code).v = s.v := rfl
@[simp] theorem State.pressKey_i (s : State) (code : Nat) : (s.pressKey code).i = s.i := rfl
@[simp] theorem State.pressKey_pc (s : State) (code : Nat) : (s.pressKey code).pc = s.pc := rfl
@[simp] theorem State.pressKey_sp (s : State) (code : Nat) : (s.pressKey code).sp = s.sp := rfl
@[simp] theorem State.pressKey_stack (s : State) (code : Nat) : (s.pressKey code).stack = s.stack := rfl
@[simp] theorem State.pressKey_mem (s : State) (code : Nat) : (s.pressKey code).mem = s.mem := rfl
@[simp] theorem State.pressKey_dt (s : State) (code : Nat) : (s.pressKey code).dt = s.dt := rfl
@[simp] theorem State.pressKey_st (s : State) (code : Nat) : (s.pressKey code).st = s.st := rfl
@[simp] theorem State.pressKey_key (s : State) (code : Nat) : (s.pressKey code).key = code % 2 ^ s.params.keyWidth := rfl
@[simp] theorem State.pressKey_halted (s : State) (code : Nat) : (s.pressKey code).halted = s.halted := rfl
@[simp] theorem State.pressKey_fault (s : State) (code : Nat) : (s.pressKey code).fault = s.fault := rfl
@[simp] theorem State.pressKey_events (s : State) (code : Nat) : (s.pressKey code).events = s.events := rfl
@[simp] theorem State.pressKey_monitor (s : State) (code : Nat) : (s.pressKey code).monitor = s.monitor := rfl
@[simp] theorem State.pressKey_params (s : State) (code : Nat) : (s.pressKey code).params = s.params := rfl
@[simp] theorem State.pressKey_draws (s : State) (code : Nat) : (s.pressKey code).draws = s.draws := rfl
@[simp] theorem State.pressKey_schedule (s : State) (code : Nat) : (s.pressKey code).schedule = s.schedule := rfl
@[simp] theorem State.pressKey_ended (s : State) (code : Nat) : (s.pressKey code).ended = s.ended := rfl

/-! ## placeWord -/

@[simp] theorem State.placeWord_v (s : State) (a : Nat) (w : Word) : (s.placeWord a w).v = s.v := rfl
@[simp] theorem State.placeWord_i (s : State) (a : Nat) (w : Word) : (s.placeWord a w).i = s.i := rfl
@[simp] theorem State.placeWord_pc (s : State) (a : Nat) (w : Word) : (s.placeWord a w).pc = s.pc := rfl
@[simp] theorem State.placeWord_sp (s : State) (a : Nat) (w : Word) : (s.placeWord a w).sp = s.sp := rfl
@[simp] theorem State.placeWord_stack (s : State) (a : Nat) (w : Word) : (s.placeWord a w).stack = s.stack := rfl
@[simp] theorem State.placeWord_mem (s : State) (a : Nat) (w : Word) : (s.placeWord a w).mem = s.mem.writeRun a [highByte w, lowByte w] := rfl
@[simp] theorem State.placeWord_dt (s : State) (a : Nat) (w : Word) : (s.placeWord a w).dt = s.dt := rfl
@[simp] theorem State.placeWord_st (s : State) (a : Nat) (w : Word) : (s.placeWord a w).st = s.st := rfl
@[simp] theorem State.placeWord_key (s : State) (a : Nat) (w : Word) : (s.placeWord a w).key = s.key := rfl
@[simp] theorem State.placeWord_halted (s : State) (a : Nat) (w : Word) : (s.placeWord a w).halted = s.halted := rfl
@[simp] theorem State.placeWord_fault (s : State) (a : Nat) (w : Word) : (s.placeWord a w).fault = s.fault := rfl
@[simp] theorem State.placeWord_events (s : State) (a : Nat) (w : Word) : (s.placeWord a w).events = s.events := rfl
@[simp] theorem State.placeWord_monitor (s : State) (a : Nat) (w : Word) : (s.placeWord a w).monitor = s.monitor := rfl
@[simp] theorem State.placeWord_params (s : State) (a : Nat) (w : Word) : (s.placeWord a w).params = s.params := rfl
@[simp] theorem State.placeWord_draws (s : State) (a : Nat) (w : Word) : (s.placeWord a w).draws = s.draws := rfl
@[simp] theorem State.placeWord_schedule (s : State) (a : Nat) (w : Word) : (s.placeWord a w).schedule = s.schedule := rfl
@[simp] theorem State.placeWord_ended (s : State) (a : Nat) (w : Word) : (s.placeWord a w).ended = s.ended := rfl

end Sys2Proof.Machine
end

