-- ==== Sys2Proof/Laws/Ops.lean ====
section
/-! SUPPORT. What each shared operation does, once: registers, the call stack, timers, fetch, fault, loader. -/

namespace Sys2Proof.Machine

/-! ## Registers -/

/-- A register reads as written, every other register as before. -/
@[simp] theorem State.reg_setReg (s : State) (x y : Reg) (b : Byte) :
    (s.setReg x b).reg y = if y = x then b else s.reg y := by
  obtain ⟨x, hx⟩ := x
  obtain ⟨y, hy⟩ := y
  simp only [State.reg, State.setReg, Vector.get_eq_getElem, Vector.getElem_set, Fin.mk.injEq, eq_comm]

theorem State.setReg_eq (s : State) (x : Reg) (b : Byte) : s.setReg x b = { s with v := (s.setReg x b).v } := rfl

/-- A run of register writes writes nothing but registers. -/
theorem State.setRegs_eq (ks : List Reg) (f : Reg → Byte) (s : State) :
    s.setRegs ks f = { s with v := (s.setRegs ks f).v } := by
  induction ks generalizing s with
  | nil => rfl
  | cons k ks ih =>
    show State.setRegs (s.setReg k (f k)) ks f = _
    rw [ih (s.setReg k (f k))]
    rfl

/-- A run of register writes: each register of the run holds its new value, every other register its old one. -/
@[simp] theorem State.reg_setRegs (ks : List Reg) (f : Reg → Byte) (s : State) (z : Reg) :
    (s.setRegs ks f).reg z = if z ∈ ks then f z else s.reg z := by
  induction ks generalizing s with
  | nil => simp [State.setRegs]
  | cons k ks ih =>
    show (State.setRegs (s.setReg k (f k)) ks f).reg z = _
    rw [ih, State.reg_setReg]
    by_cases h : z ∈ ks
    · simp [h]
    · by_cases hk : z = k
      · subst hk; simp
      · simp [h, hk]

/-- The other updates leave the registers' readings alone. -/
@[simp] theorem State.reg_of_v (s t : State) (h : t.v = s.v) (z : Reg) : t.reg z = s.reg z := by
  simp [State.reg, h]

/-! ## The run of registers of `Fx55` and `Fx65` -/

@[simp] theorem mem_regsTo (x z : Reg) : z ∈ regsTo x ↔ z ≤ x := by simp [regsTo]

theorem regsTo_length : ∀ x : Reg, (regsTo x).length = x.val + 1 := by decide

theorem regsTo_getElem? : ∀ x k : Reg, k ≤ x → (regsTo x)[k.val]? = some k := by decide

/-! ## Addresses and widened operands -/

/-- The range check in numbers: the highest address is at most `0xFFF` (20_memory.md R55, R57). -/
theorem State.dataOk_iff (s : State) (last : Nat) : s.dataOk last = true ↔ s.i.toNat + last ≤ 0xFFF := by
  unfold State.dataOk
  rw [decide_eq_true_iff]
  exact Nat.lt_succ_iff

@[simp] theorem zextAddr_toNat (a : Addr) : (zextAddr a).toNat = a.toNat := by
  rw [zextAddr, BitVec.toNat_setWidth]
  exact Nat.mod_eq_of_lt (by omega)

@[simp] theorem zextByte_toNat (b : Byte) : (zextByte b).toNat = b.toNat := by
  rw [zextByte, BitVec.toNat_setWidth]
  exact Nat.mod_eq_of_lt (by omega)

/-! ## The call stack -/

/-- A push in full: exactly when 16 entries are in use does it fail; else it writes the entry and counts it. -/
theorem State.push_spec (s : State) (w : Word) :
    (s.sp.val = 16 ∧ s.push w = none) ∨
    ∃ t, s.push w = some t ∧ t.sp.val = s.sp.val + 1 ∧
      (∀ k : Fin 16, t.stack.get k = if k.val = s.sp.val then w else s.stack.get k) ∧
      t = { s with stack := t.stack, sp := t.sp } := by
  by_cases h : s.sp.val < 16
  · refine .inr ⟨{ s with stack := s.stack.set s.sp.val w h, sp := ⟨s.sp.val + 1, by omega⟩ },
      by simp only [State.push, dif_pos h], rfl, fun k => ?_, rfl⟩
    simp only [Vector.get_eq_getElem, Vector.getElem_set, eq_comm]
  · exact .inl ⟨by omega, by simp only [State.push, dif_neg h]⟩

/-- A pop in full: exactly when no entry is in use does it fail; else it answers the newest entry and keeps it. -/
theorem State.pop_spec (s : State) :
    (s.sp.val = 0 ∧ s.pop = none) ∨
    ∃ (k : Fin 16) (t : State), s.sp.val = k.val + 1 ∧ s.pop = some (s.stack.get k, t) ∧ t.sp.val = k.val ∧
      t = { s with sp := t.sp } := by
  by_cases h : s.sp.val = 0
  · exact .inl ⟨h, by simp only [State.pop, dif_pos h]⟩
  · exact .inr ⟨⟨s.sp.val - 1, by omega⟩, { s with sp := ⟨s.sp.val - 1, by omega⟩ }, by simp only; omega,
      by simp only [State.pop, dif_neg h], rfl, rfl⟩

/-! ## Timers, fetch, bytes -/

/-- A timer loses one and stops at zero. -/
theorem timerTick_toNat (t : Byte) : (timerTick t).toNat = t.toNat - 1 := by
  unfold timerTick
  split_ifs with h
  · subst h; rfl
  · have : t.toNat ≠ 0 := fun h0 => h (BitVec.eq_of_toNat_eq (by simpa using h0))
    have := t.isLt
    have h1 : (1 : Byte).toNat = 1 := rfl
    simp only [BitVec.toNat_sub, h1]
    omega

/-- The two bytes of a word make the word again (20_memory.md R52). -/
@[simp] theorem wordOfBytes_high_low (w : Word) : wordOfBytes (highByte w) (lowByte w) = w := by
  apply BitVec.eq_of_getLsbD_eq
  intro i hi
  simp only [wordOfBytes, highByte, lowByte, BitVec.getLsbD_append, BitVec.getLsbD_extractLsb']
  by_cases h : i < 8
  · simp [h]
  · simp [h, show i - 8 < 8 by omega, show 8 + (i - 8) = i by omega]

@[simp] theorem highByte_wordOfBytes (hi lo : Byte) : highByte (wordOfBytes hi lo) = hi := by
  apply BitVec.eq_of_getLsbD_eq
  intro i h
  simp only [wordOfBytes, highByte, BitVec.getLsbD_append, BitVec.getLsbD_extractLsb', h]
  simp

@[simp] theorem lowByte_wordOfBytes (hi lo : Byte) : lowByte (wordOfBytes hi lo) = lo := by
  apply BitVec.eq_of_getLsbD_eq
  intro i h
  simp only [wordOfBytes, lowByte, BitVec.getLsbD_append, BitVec.getLsbD_extractLsb', h]
  simp [h]

/-- A word placed inside memory is fetched from its address (20_memory.md R52, R56). -/
theorem State.fetch_placeWord (s : State) (w : Word) (h : s.pc.toNat + 1 < Config.memSize) :
    (s.placeWord s.pc.toNat w).fetch = some w := by
  have hl : s.pc.toNat + ([highByte w, lowByte w] : List Byte).length ≤ Config.memSize := h
  have h0 := Memory.read_writeRun_inside [highByte w, lowByte w] s.mem s.pc.toNat 0 hl (by simp)
  have h1 := Memory.read_writeRun_inside [highByte w, lowByte w] s.mem s.pc.toNat 1 hl (by simp)
  simp only [Nat.add_zero] at h0
  simp only [State.fetch, State.placeWord_pc, State.placeWord_mem, if_pos h, h0, h1]
  simp

/-! ## Fault, reset, loader -/

/-- A fault of a running core: the latch and the record, nothing else. -/
theorem State.raiseIn_running (s : State) (c : FaultCause) (j : Instr) (h : s.halted = false) :
    s.raiseIn c j = { s with halted := true, fault := some ⟨c, s.pc - 2, some (encode j)⟩ } := by
  simp [State.raiseIn, State.raise, h]

/-- The first fault is kept. -/
theorem State.raise_of_halted (s : State) (c : FaultCause) (p : Word) (w : Option Word) (h : s.halted = true) :
    s.raise c p w = s := by
  cases s; simp_all [State.raise]

/-- Power-on fills memory (70_reset_and_hazards.md R244). -/
@[simp] theorem State.powerOn_mem (p : Parameters) (memInit : Nat → Byte) :
    (State.powerOn p memInit).mem = Memory.ofFn Config.memSize memInit := by
  simp only [State.powerOn]

@[simp] theorem State.powerOn_params (p : Parameters) (memInit : Nat → Byte) :
    (State.powerOn p memInit).params = p := rfl

theorem Params.font_length : Params.font.length = 80 := by decide

/-- An address of the font table that nothing has written reads as the default font. -/
theorem Memory.unlisted_font (a : Nat) (h : a < 80) : Memory.unlisted a = Params.defaults.font[a] := by
  have hl : a < Params.font.length := by rw [Params.font_length]; exact h
  rw [Memory.unlisted, if_pos (show a < Config.fontLen from h), List.getD_eq_getElem _ _ hl]
  rfl

/-- Reset loads this machine's font (70_reset_and_hazards.md R240). -/
theorem State.read_resetCore_font (s : State) (a : Nat) (h : a < 80) : s.resetCore.mem.read a = s.params.font[a] := by
  have hl : s.params.font.toList.length = 80 := Vector.length_toList
  have := Memory.read_writeRun_inside s.params.font.toList s.mem Config.fontBase a (by rw [hl]; decide) (by rw [hl]; exact h)
  rw [show Config.fontBase + a = a from Nat.zero_add a] at this
  rw [State.resetCore_mem, this, Vector.getElem_toList]

/-- Reset leaves every byte above the font (70_reset_and_hazards.md R241). -/
theorem State.read_resetCore_above (s : State) (a : Nat) (h : 80 ≤ a) : s.resetCore.mem.read a = s.mem.read a := by
  have hl : s.params.font.toList.length = 80 := Vector.length_toList
  rw [State.resetCore_mem]
  exact Memory.read_writeRun_outside _ _ _ _ (by rw [hl]; decide) (by rw [hl]; simp only [Config.fontBase]; omega)

/-- A load fails exactly when the image is missing or too long; else it writes the image and nothing else. -/
theorem State.loadProgram_spec (s : State) (image : List Byte) :
    (3584 < image.length ∧ s.loadProgram (some image) = .error .tooLong) ∨
    (image.length ≤ 3584 ∧ s.loadProgram (some image) = .ok { s with mem := s.mem.writeRun 0x200 image }) := by
  have he : Config.entry.toNat = 0x200 := rfl
  by_cases h : Config.entry.toNat + image.length > Config.memSize
  · refine .inl ⟨?_, by simp only [State.loadProgram, if_pos h]⟩
    simp only [he, Config.memSize] at h; omega
  · refine .inr ⟨?_, by simp only [State.loadProgram, if_neg h]; rfl⟩
    simp only [he, Config.memSize] at h; omega

end Sys2Proof.Machine
end

