-- ==== Sys2Proof/Laws/Monitor.lean ====
section
/-! SUPPORT. What registration and the boundary can do. -/

namespace Sys2Proof.Machine

/-- Registration in full: a full list refuses, any other list grows by one entry at its end. -/
theorem register_spec (l : List ListEntry) (w : Word) :
    (255 ≤ l.length ∧ register l w = none) ∨ (l.length < 255 ∧ register l w = some (l ++ [⟨l.length, w⟩])) := by
  by_cases h : l.length < Config.listCap
  · exact .inr ⟨h, by simp only [register, if_pos h]⟩
  · exact .inl ⟨Nat.le_of_not_lt h, by simp only [register, if_neg h]⟩

theorem Monitor.addBreakpoint_watchpoints (m : Monitor) (a : Word) :
    (m.addBreakpoint a).watchpoints = m.watchpoints := by
  unfold Monitor.addBreakpoint; split <;> rfl

theorem Monitor.addWatchpoint_breakpoints (m : Monitor) (w : Word) :
    (m.addWatchpoint w).breakpoints = m.breakpoints := by
  unfold Monitor.addWatchpoint; split <;> rfl

/-- A breakpoint command leaves the list as it was, or appends one entry to a list that was not full. -/
theorem Monitor.addBreakpoint_cases (m : Monitor) (a : Word) :
    (m.addBreakpoint a).breakpoints = m.breakpoints ∨
    (m.breakpoints.length < 255 ∧ (m.addBreakpoint a).breakpoints = m.breakpoints ++ [⟨m.breakpoints.length, a⟩]) := by
  unfold Monitor.addBreakpoint
  rcases register_spec m.breakpoints a with ⟨-, h⟩ | ⟨hl, h⟩
  · rw [h]; exact .inl rfl
  · rw [h]; exact .inr ⟨hl, rfl⟩

/-- A watchpoint command leaves the list as it was, or appends one entry to a list that was not full. -/
theorem Monitor.addWatchpoint_cases (m : Monitor) (w : Word) :
    (m.addWatchpoint w).watchpoints = m.watchpoints ∨
    (m.watchpoints.length < 255 ∧ (m.addWatchpoint w).watchpoints = m.watchpoints ++ [⟨m.watchpoints.length, w⟩]) := by
  unfold Monitor.addWatchpoint
  rcases register_spec m.watchpoints w with ⟨-, h⟩ | ⟨hl, h⟩
  · rw [h]; exact .inl rfl
  · rw [h]; exact .inr ⟨hl, rfl⟩

/-- With the monitor off the boundary does nothing (60_exceptions.md R219). -/
theorem boundary_off (s : State) (h : s.monitor.enabled = false) : boundary s = .go s := by
  simp [boundary, h]

/-- With the monitor Ignoring and no hit the boundary does nothing (60_exceptions.md R220). -/
theorem boundary_ignoring (s : State) (hm : s.monitor.mode = .ignoring) (hh : s.monitorHit = false) :
    boundary s = .go s := by
  simp only [boundary, hh, Bool.false_eq_true, if_false, hm]
  split <;> rfl

/-- A boundary with the monitor on prompts after a hit and when Armed (60_exceptions.md R220). -/
theorem boundary_prompt (s : State) (he : s.monitor.enabled = true)
    (h : s.monitor.mode = .armed ∨ s.monitorHit = true) :
    boundary s = prompt { s with monitor := { s.monitor with mode := .armed } } := by
  unfold boundary
  rw [if_pos he]
  rcases h with h | h
  · split
    · rfl
    · have : s = { s with monitor := { s.monitor with mode := .armed } } := by
        conv_lhs => rw [show s = { s with monitor := { s.monitor with mode := s.monitor.mode } } from rfl, h]
      simp only [h]
      exact congrArg prompt this
  · simp only [h, if_true]

end Sys2Proof.Machine
end

