-- ==== Sys2Proof/Laws/PerInstr.lean ====
section
/-! SUPPORT. A law of every instruction as syntax: its word matches its own row of the opcode table
(30_encoding.md R74), whatever its operands are. -/

namespace Sys2Proof.Laws.RowMatch

/-- The `mask` and `match` columns of an instruction's row (30_encoding.md R74). -/
def row : Instr → Word × Word
  | .cls => (0xFFFF#16, 0x00E0#16)
  | .ret => (0xFFFF#16, 0x00EE#16)
  | .sys _ => (0xF000#16, 0x0000#16)
  | .jp _ => (0xF000#16, 0x1000#16)
  | .call _ => (0xF000#16, 0x2000#16)
  | .seImm _ _ => (0xF000#16, 0x3000#16)
  | .sneImm _ _ => (0xF000#16, 0x4000#16)
  | .seReg _ _ => (0xF00F#16, 0x5000#16)
  | .ldImm _ _ => (0xF000#16, 0x6000#16)
  | .addImm _ _ => (0xF000#16, 0x7000#16)
  | .ldReg _ _ => (0xF00F#16, 0x8000#16)
  | .orReg _ _ => (0xF00F#16, 0x8001#16)
  | .andReg _ _ => (0xF00F#16, 0x8002#16)
  | .xorReg _ _ => (0xF00F#16, 0x8003#16)
  | .addReg _ _ => (0xF00F#16, 0x8004#16)
  | .subReg _ _ => (0xF00F#16, 0x8005#16)
  | .shr _ _ => (0xF00F#16, 0x8006#16)
  | .subn _ _ => (0xF00F#16, 0x8007#16)
  | .shl _ _ => (0xF00F#16, 0x800E#16)
  | .sneReg _ _ => (0xF00F#16, 0x9000#16)
  | .ldI _ => (0xF000#16, 0xA000#16)
  | .jpV0 _ => (0xF000#16, 0xB000#16)
  | .rnd _ _ => (0xF000#16, 0xC000#16)
  | .drw _ _ _ => (0xF000#16, 0xD000#16)
  | .skp _ => (0xF0FF#16, 0xE09E#16)
  | .sknp _ => (0xF0FF#16, 0xE0A1#16)
  | .ldVxDT _ => (0xF0FF#16, 0xF007#16)
  | .ldVxK _ => (0xF0FF#16, 0xF00A#16)
  | .ldDT _ => (0xF0FF#16, 0xF015#16)
  | .ldST _ => (0xF0FF#16, 0xF018#16)
  | .addI _ => (0xF0FF#16, 0xF01E#16)
  | .ldF _ => (0xF0FF#16, 0xF029#16)
  | .ldB _ => (0xF0FF#16, 0xF033#16)
  | .storeRegs _ => (0xF0FF#16, 0xF055#16)
  | .loadRegs _ => (0xF0FF#16, 0xF065#16)

/-- The word of `i` is one that its row of the table selects. -/
def Statement (i : Instr) : Prop := encode i &&& (row i).1 = (row i).2

/-- A nibble under an all-ones mask is itself. -/
theorem nibble_masked (a : Nibble) : a &&& 0xF#4 = a := BitVec.and_allOnes

theorem byte_masked (a : Byte) : a &&& 0xFF#8 = a := BitVec.and_allOnes

theorem encodeAddr_masked (op : Nibble) (addr : Addr) : encodeAddr op addr &&& 0xF000#16 = op ++ 0x000#12 := by
  show (op ++ addr) &&& (0xF#4 ++ 0x000#12) = op ++ 0x000#12
  rw [BitVec.and_append, nibble_masked, BitVec.and_zero]

theorem encodeImm_masked (op : Nibble) (x : Reg) (kk : Byte) : encodeImm op x kk &&& 0xF000#16 = op ++ 0x000#12 := by
  show (op ++ (regField x ++ kk)) &&& (0xF#4 ++ 0x000#12) = op ++ 0x000#12
  rw [BitVec.and_append, nibble_masked, BitVec.and_zero]

theorem encodeRegs_masked (op : Nibble) (x y : Reg) (n : Nibble) : encodeRegs op x y n &&& 0xF000#16 = op ++ 0x000#12 := by
  show (op ++ (regField x ++ (regField y ++ n))) &&& (0xF#4 ++ 0x000#12) = op ++ 0x000#12
  rw [BitVec.and_append, nibble_masked, BitVec.and_zero]

/-- Families 5, 8, 9: the low nibble selects too. -/
theorem encodeRegs_selected (op : Nibble) (x y : Reg) (n : Nibble) :
    encodeRegs op x y n &&& 0xF00F#16 = op ++ (0x0#4 ++ (0x0#4 ++ n)) := by
  show (op ++ (regField x ++ (regField y ++ n))) &&& (0xF#4 ++ (0x0#4 ++ (0x0#4 ++ 0xF#4))) = op ++ (0x0#4 ++ (0x0#4 ++ n))
  rw [BitVec.and_append, BitVec.and_append, BitVec.and_append, nibble_masked, nibble_masked, BitVec.and_zero,
    BitVec.and_zero]

/-- Families E, F: the low byte selects too. -/
theorem encodeImm_selected (op : Nibble) (x : Reg) (kk : Byte) :
    encodeImm op x kk &&& 0xF0FF#16 = op ++ (0x0#4 ++ kk) := by
  show (op ++ (regField x ++ kk)) &&& (0xF#4 ++ (0x0#4 ++ 0xFF#8)) = op ++ (0x0#4 ++ kk)
  rw [BitVec.and_append, BitVec.and_append, nibble_masked, byte_masked, BitVec.and_zero]

theorem cls : Statement .cls := rfl
theorem ret : Statement .ret := rfl
theorem sys (addr : Addr) : Statement (.sys addr) := encodeAddr_masked _ addr
theorem jp (addr : Addr) : Statement (.jp addr) := encodeAddr_masked _ addr
theorem call (addr : Addr) : Statement (.call addr) := encodeAddr_masked _ addr
theorem seImm (x : Reg) (kk : Byte) : Statement (.seImm x kk) := encodeImm_masked _ x kk
theorem sneImm (x : Reg) (kk : Byte) : Statement (.sneImm x kk) := encodeImm_masked _ x kk
theorem seReg (x y : Reg) : Statement (.seReg x y) := encodeRegs_selected _ x y _
theorem ldImm (x : Reg) (kk : Byte) : Statement (.ldImm x kk) := encodeImm_masked _ x kk
theorem addImm (x : Reg) (kk : Byte) : Statement (.addImm x kk) := encodeImm_masked _ x kk
theorem ldReg (x y : Reg) : Statement (.ldReg x y) := encodeRegs_selected _ x y _
theorem orReg (x y : Reg) : Statement (.orReg x y) := encodeRegs_selected _ x y _
theorem andReg (x y : Reg) : Statement (.andReg x y) := encodeRegs_selected _ x y _
theorem xorReg (x y : Reg) : Statement (.xorReg x y) := encodeRegs_selected _ x y _
theorem addReg (x y : Reg) : Statement (.addReg x y) := encodeRegs_selected _ x y _
theorem subReg (x y : Reg) : Statement (.subReg x y) := encodeRegs_selected _ x y _
theorem shr (x y : Reg) : Statement (.shr x y) := encodeRegs_selected _ x y _
theorem subn (x y : Reg) : Statement (.subn x y) := encodeRegs_selected _ x y _
theorem shl (x y : Reg) : Statement (.shl x y) := encodeRegs_selected _ x y _
theorem sneReg (x y : Reg) : Statement (.sneReg x y) := encodeRegs_selected _ x y _
theorem ldI (addr : Addr) : Statement (.ldI addr) := encodeAddr_masked _ addr
theorem jpV0 (addr : Addr) : Statement (.jpV0 addr) := encodeAddr_masked _ addr
theorem rnd (x : Reg) (kk : Byte) : Statement (.rnd x kk) := encodeImm_masked _ x kk
theorem drw (x y : Reg) (n : Nibble) : Statement (.drw x y n) := encodeRegs_masked _ x y n
theorem skp (x : Reg) : Statement (.skp x) := encodeImm_selected _ x _
theorem sknp (x : Reg) : Statement (.sknp x) := encodeImm_selected _ x _
theorem ldVxDT (x : Reg) : Statement (.ldVxDT x) := encodeImm_selected _ x _
theorem ldVxK (x : Reg) : Statement (.ldVxK x) := encodeImm_selected _ x _
theorem ldDT (x : Reg) : Statement (.ldDT x) := encodeImm_selected _ x _
theorem ldST (x : Reg) : Statement (.ldST x) := encodeImm_selected _ x _
theorem addI (x : Reg) : Statement (.addI x) := encodeImm_selected _ x _
theorem ldF (x : Reg) : Statement (.ldF x) := encodeImm_selected _ x _
theorem ldB (x : Reg) : Statement (.ldB x) := encodeImm_selected _ x _
theorem storeRegs (x : Reg) : Statement (.storeRegs x) := encodeImm_selected _ x _
theorem loadRegs (x : Reg) : Statement (.loadRegs x) := encodeImm_selected _ x _

end Sys2Proof.Laws.RowMatch
end

