-- ==== Sys2Proof/Laws/Step.lean ====
section
/-! SUPPORT. What a step is, by whose turn it is. -/

namespace Sys2Proof.Machine

theorem step_ended (s : State) (h : s.ended = true) : step s = .fault .runEnded := by simp [step, h]

/-- With nothing scheduled the core has its turn. -/
theorem step_core (s : State) (he : s.ended = false) (h : s.schedule = []) : step s = coreTurn s := by
  simp [step, he, nextTurn, h]

/-- A scheduled turn is taken off the schedule and taken. -/
theorem step_scheduled (s : State) (a : Turn) (rest : List Turn) (he : s.ended = false) (h : s.schedule = a :: rest) :
    step s = takeTurn a { s with schedule := rest } := by
  simp [step, he, nextTurn, h]

theorem coreTurn_halted (s : State) (h : s.halted = true) : coreTurn s = .fault (.coreHalted s.fault) := by
  simp [coreTurn, h]

/-- A core that nothing holds ticks. -/
theorem coreTurn_go (s t : State) (hh : s.halted = false) (h : boundary s = .go t) : coreTurn s = tick t := by
  simp [coreTurn, hh, h]

/-- A core that the monitor holds does not tick (60_exceptions.md R225). -/
theorem coreTurn_hold (s t : State) (hh : s.halted = false) (h : boundary s = .hold t) : coreTurn s = .next t := by
  simp [coreTurn, hh, h]

/-- A tick in full: a fetch fault, an illegal word, or an instruction executed on the advanced state
(00_scope.md R10, 60_exceptions.md R206). -/
theorem tick_cases (s : State) :
    (s.tickTimers.fetch = none ∧
      tick s = .next (s.tickTimers.raise (.memoryFault .fetch s.pc.toNat) s.pc none)) ∨
    (∃ w r, s.tickTimers.fetch = some w ∧ decodeWord w = .error r ∧
      tick s = .next (s.tickTimers.advance.raise (.decodeFault (fieldsOf w).op (fieldsOf w).addr)
        (s.pc + 2 - 2) (some w))) ∨
    (∃ w i, s.tickTimers.fetch = some w ∧ decodeWord w = .ok i ∧ tick s = exec i s.tickTimers.advance) := by
  cases hf : s.tickTimers.fetch with
  | none => exact .inl ⟨rfl, by simp only [tick, hf, State.tickTimers_pc]⟩
  | some w =>
    cases hd : decodeWord w with
    | error r =>
      exact .inr (.inl ⟨w, r, rfl, hd, by
        simp only [tick, hf, decodeAndExec, hd, State.advance_pc, State.tickTimers_pc]⟩)
    | ok i => exact .inr (.inr ⟨w, i, rfl, hd, by simp only [tick, hf, decodeAndExec, hd]⟩)

/-- The state made for a table word runs it at the very next step. -/
theorem step_withFetchWord (s : State) (w : Word) :
    ∃ t, step (s.withFetchWord 16 w.toNat) = decodeAndExec w t ∧ t.pc = fetchSlot s.pc + 2 := by
  have hw : BitVec.ofNat 16 (w.toNat % 2 ^ 16) = w := by
    rw [Nat.mod_eq_of_lt w.isLt, BitVec.ofNat_toNat, BitVec.setWidth_eq]
  have hslot : (fetchSlot s.pc).toNat + 1 < Config.memSize := by
    unfold fetchSlot
    split
    · assumption
    · decide
  have hf := State.fetch_placeWord { s with pc := fetchSlot s.pc } w hslot
  refine ⟨(s.withFetchWord 16 w.toNat).tickTimers.advance, ?_, rfl⟩
  have h1 : step (s.withFetchWord 16 w.toNat) = tick (s.withFetchWord 16 w.toNat) := by
    rw [step_core _ rfl rfl, coreTurn_go _ _ rfl (boundary_off _ rfl)]
  have h2 : (s.withFetchWord 16 w.toNat).tickTimers.fetch = some w := by
    rw [← hf]
    simp only [State.fetch, State.withFetchWord, State.tickTimers, State.placeWord, hw]
    rfl
  rw [h1]
  simp only [tick, h2]

end Sys2Proof.Machine
end

