-- ==== Sys2Proof/Tests/Slice0.lean ====
section
/-! SUPPORT. Tests: the words of the spec's encoding, the vectors of 95_test_vectors.md (each test names its vector),
the well-formedness smoke test, and for every statement with hypotheses a witness that meets them. -/

namespace Sys2Proof.Tests

open Sys2Proof.Machine

/-! ## WellFormed: the check, and the ill-formed terms it refuses (30_encoding.md R75) -/

theorem test_wellFormed_refuses_sys_of_cls : (Instr.sys 0x0E0#12).wellFormed = false := by decide
theorem test_wellFormed_refuses_sys_of_ret : (Instr.sys 0x0EE#12).wellFormed = false := by decide
theorem test_wellFormed_takes_their_neighbours :
    (Instr.sys 0x0E1#12).wellFormed = true ∧ (Instr.sys 0x0EF#12).wellFormed = true := by decide

/-! ## Decoding: every constructor, by a word written out from 30_encoding.md R71 and R74 -/

theorem test_decode_cls : decodeWord 0b0000000011100000#16 = .ok (.cls) := by decide
theorem test_decode_ret : decodeWord 0b0000000011101110#16 = .ok (.ret) := by decide
theorem test_decode_sys : decodeWord 0b0000000100100011#16 = .ok (.sys 0x123#12) := by decide
theorem test_decode_jp : decodeWord 0b0001101010111100#16 = .ok (.jp 0xABC#12) := by decide
theorem test_decode_call : decodeWord 0b0010101010111101#16 = .ok (.call 0xABD#12) := by decide
theorem test_decode_seImm : decodeWord 0b0011101000101011#16 = .ok (.seImm 10 0x2B#8) := by decide
theorem test_decode_sneImm : decodeWord 0b0100101100101100#16 = .ok (.sneImm 11 0x2C#8) := by decide
theorem test_decode_seReg : decodeWord 0b0101000100100000#16 = .ok (.seReg 1 2) := by decide
theorem test_decode_ldImm : decodeWord 0b0110111110000001#16 = .ok (.ldImm 15 0x81#8) := by decide
theorem test_decode_addImm : decodeWord 0b0111001100000010#16 = .ok (.addImm 3 0x02#8) := by decide
theorem test_decode_ldReg : decodeWord 0b1000000100100000#16 = .ok (.ldReg 1 2) := by decide
theorem test_decode_orReg : decodeWord 0b1000001101000001#16 = .ok (.orReg 3 4) := by decide
theorem test_decode_andReg : decodeWord 0b1000010101100010#16 = .ok (.andReg 5 6) := by decide
theorem test_decode_xorReg : decodeWord 0b1000011110000011#16 = .ok (.xorReg 7 8) := by decide
theorem test_decode_addReg : decodeWord 0b1000100110100100#16 = .ok (.addReg 9 10) := by decide
theorem test_decode_subReg : decodeWord 0b1000101111000101#16 = .ok (.subReg 11 12) := by decide
theorem test_decode_shr : decodeWord 0b1000101010110110#16 = .ok (.shr 10 11) := by decide
theorem test_decode_subn : decodeWord 0b1000110111100111#16 = .ok (.subn 13 14) := by decide
theorem test_decode_shl : decodeWord 0b1000000011111110#16 = .ok (.shl 0 15) := by decide
theorem test_decode_sneReg : decodeWord 0b1001000100100000#16 = .ok (.sneReg 1 2) := by decide
theorem test_decode_ldI : decodeWord 0b1010001000001010#16 = .ok (.ldI 0x20A#12) := by decide
theorem test_decode_jpV0 : decodeWord 0b1011001100000001#16 = .ok (.jpV0 0x301#12) := by decide
theorem test_decode_rnd : decodeWord 0b1100000111110000#16 = .ok (.rnd 1 0xF0#8) := by decide
theorem test_decode_drw : decodeWord 0b1101000100101111#16 = .ok (.drw 1 2 0xF#4) := by decide
theorem test_decode_skp : decodeWord 0b1110001010011110#16 = .ok (.skp 2) := by decide
theorem test_decode_sknp : decodeWord 0b1110001110100001#16 = .ok (.sknp 3) := by decide
theorem test_decode_ldVxDT : decodeWord 0b1111000100000111#16 = .ok (.ldVxDT 1) := by decide
theorem test_decode_ldVxK : decodeWord 0b1111001000001010#16 = .ok (.ldVxK 2) := by decide
theorem test_decode_ldDT : decodeWord 0b1111001100010101#16 = .ok (.ldDT 3) := by decide
theorem test_decode_ldST : decodeWord 0b1111010000011000#16 = .ok (.ldST 4) := by decide
theorem test_decode_addI : decodeWord 0b1111010100011110#16 = .ok (.addI 5) := by decide
theorem test_decode_ldF : decodeWord 0b1111011000101001#16 = .ok (.ldF 6) := by decide
theorem test_decode_ldB : decodeWord 0b1111011100110011#16 = .ok (.ldB 7) := by decide
theorem test_decode_storeRegs : decodeWord 0b1111100001010101#16 = .ok (.storeRegs 8) := by decide
theorem test_decode_loadRegs : decodeWord 0b1111100101100101#16 = .ok (.loadRegs 9) := by decide

/-- Vectors T-U1, T-U3, T-U5, T-U16, T-U37: illegal words of every family that has some. -/
theorem test_decode_illegal :
    decodeWord 0x512F#16 = .error (.illegal 0x5#4 0x12F#12) ∧ decodeWord 0x9121#16 = .error (.illegal 0x9#4 0x121#12) ∧
    decodeWord 0x8018#16 = .error (.illegal 0x8#4 0x018#12) ∧ decodeWord 0xEFFF#16 = .error (.illegal 0xE#4 0xFFF#12) ∧
    decodeWord 0xFFFF#16 = .error (.illegal 0xF#4 0xFFF#12) := by decide

/-- A byte short of a word is rejected by name. -/
theorem test_decode_truncated : decodeBytes [0x60#8] = .error .truncated := by decide

/-! ## One step on a small state -/

/-- The boot state with these registers (95_test_vectors.md, conventions; no program loaded). -/
def boot (l : List (Reg × Byte)) : State := l.foldl (fun s p => s.setReg p.1 p.2) State.reset

/-- The same with bytes placed from an address on. -/
def placed (s : State) (a : Nat) (l : List Byte) : State := { s with mem := s.mem.writeRun a l }

/-- One step on a state whose word at `pc` is `w` ends in a next state that meets `p`. -/
def ran (s : State) (w : Nat) (p : State → Bool) : Bool :=
  match step (s.withFetchWord 16 w) with
  | .next t => p t
  | .fault _ => false
  | .refused _ => false

/-- The tick faulted at `0x200` inside the instruction of `w`. -/
def faultedAs (t : State) (c : FaultCause) (w : Word) : Bool :=
  t.halted && t.fault == some ⟨c, 0x200#16, some w⟩ && t.pc == 0x202#16

/-- T-F1. -/
theorem test_cls : ran State.reset 0x00E0 (fun t => t.pc == 0x202#16 && t.events == [.clear]) = true := by decide
/-- T-F3. -/
theorem test_ret : ran { State.reset with sp := 16, stack := State.reset.stack.set 15 0x0ABC#16 } 0x00EE (fun t => t.pc == 0xABC#16 && t.sp == 15) = true := by decide
/-- T-F4, T-E1. -/
theorem test_ret_empty : ran State.reset 0x00EE (fun t => faultedAs t .stackUnderflow 0x00EE#16 && t.sp == 0) = true := by decide
/-- T-F7. -/
theorem test_sys : ran State.reset 0x00E1 (fun t => t.pc == 0x0E1#16 && t.events == [] && t.sp == 0) = true := by decide
/-- T-F11. -/
theorem test_jp : ran State.reset 0x1201 (fun t => t.pc == 0x201#16) = true := by decide
/-- T-F15: the pushed value is not checked. -/
theorem test_call : ran { State.reset with pc := 0xFFE#16 } 0x2300 (fun t => t.pc == 0x300#16 && t.sp == 1 && t.stack.get 0 == 0x1000#16) = true := by decide
/-- T-F14, T-E2. -/
theorem test_call_full : ran { State.reset with sp := 16 } 0x2ABC (fun t => faultedAs t .stackOverflow 0x2ABC#16 && t.sp == 16 && t.stack == State.reset.stack) = true := by decide
/-- T-S1. -/
theorem test_seImm : ran (boot [(10, 0x2A#8)]) 0x3A2A (fun t => t.pc == 0x204#16) = true := by decide
/-- T-S14. -/
theorem test_seImm_at_the_end : ran { State.reset with pc := 0xFFC#16 } 0x3000 (fun t => t.pc == 0x1000#16) = true := by decide
/-- T-S4. -/
theorem test_sneImm : ran (boot [(10, 0x2A#8)]) 0x4A2A (fun t => t.pc == 0x202#16) = true := by decide
/-- T-S15: no wrap. -/
theorem test_sneImm_at_the_end : ran { State.reset with pc := 0xFFE#16 } 0x4001 (fun t => t.pc == 0x1002#16) = true := by decide
/-- T-S6. -/
theorem test_seReg : ran (boot [(1, 0x07#8), (2, 0x07#8)]) 0x5120 (fun t => t.pc == 0x204#16) = true := by decide
/-- T-S17. -/
theorem test_seReg_differ : ran (boot [(1, 0x80#8), (2, 0x7F#8)]) 0x5120 (fun t => t.pc == 0x202#16) = true := by decide
/-- T-S11. -/
theorem test_sneReg : ran (boot [(1, 0x07#8), (2, 0x08#8)]) 0x9120 (fun t => t.pc == 0x204#16) = true := by decide
/-- T-S12. -/
theorem test_sneReg_same : ran (boot [(3, 0x99#8)]) 0x9330 (fun t => t.pc == 0x202#16) = true := by decide
/-- T-I2. -/
theorem test_ldImm : ran State.reset 0x6FFF (fun t => t.reg VF == 0xFF#8) = true := by decide
/-- T-I4: the sum wraps, no flag. -/
theorem test_addImm : ran (boot [(0, 0xFF#8), (15, 0x55#8)]) 0x7002 (fun t => t.reg 0 == 0x01#8 && t.reg VF == 0x55#8) = true := by decide
/-- T-A1. -/
theorem test_ldReg : ran (boot [(1, 0x01#8), (2, 0xAB#8)]) 0x8120 (fun t => t.reg 1 == 0xAB#8 && t.reg 2 == 0xAB#8) = true := by decide
/-- T-A5. -/
theorem test_orReg : ran (boot [(1, 0xF0#8), (2, 0x0F#8), (15, 0x55#8)]) 0x8121 (fun t => t.reg 1 == 0xFF#8 && t.reg VF == 0x55#8) = true := by decide
/-- T-A7. -/
theorem test_andReg : ran (boot [(1, 0xF0#8), (2, 0x3C#8), (15, 0x55#8)]) 0x8122 (fun t => t.reg 1 == 0x30#8 && t.reg VF == 0x55#8) = true := by decide
/-- T-A9. -/
theorem test_xorReg : ran (boot [(1, 0xF0#8), (2, 0x3C#8), (15, 0x55#8)]) 0x8123 (fun t => t.reg 1 == 0xCC#8 && t.reg VF == 0x55#8) = true := by decide
/-- T-A14: no carry flag. -/
theorem test_addReg : ran (boot [(1, 0xFF#8), (2, 0x02#8), (15, 0x55#8)]) 0x8124 (fun t => t.reg 1 == 0x01#8 && t.reg VF == 0x55#8) = true := by decide
/-- T-A18: no borrow flag. -/
theorem test_subReg : ran (boot [(1, 0x01#8), (2, 0x02#8), (15, 0x55#8)]) 0x8125 (fun t => t.reg 1 == 0xFF#8 && t.reg VF == 0x55#8) = true := by decide
/-- T-A23: the old V[0] is not read. -/
theorem test_shr : ran (boot [(0, 0xEE#8), (1, 0x04#8)]) 0x8016 (fun t => t.reg 0 == 0x02#8 && t.reg VF == 0x00#8) = true := by decide
/-- T-A30. -/
theorem test_shr_from_VF : ran (boot [(0, 0x77#8), (15, 0x05#8)]) 0x80F6 (fun t => t.reg 0 == 0x00#8 && t.reg VF == 0x01#8) = true := by decide
/-- T-A35: equal operands leave the flag 0. -/
theorem test_subn : ran (boot [(0, 0x05#8), (1, 0x05#8), (15, 0x01#8)]) 0x8017 (fun t => t.reg 0 == 0x00#8 && t.reg VF == 0x00#8) = true := by decide
/-- T-A38. -/
theorem test_subn_into_VF : ran (boot [(1, 0x05#8), (15, 0x03#8)]) 0x8F17 (fun t => t.reg VF == 0x04#8) = true := by decide
/-- T-A46: the flag is 0x80, y is ignored. -/
theorem test_shl : ran (boot [(0, 0x81#8), (15, 0x07#8)]) 0x80FE (fun t => t.reg 0 == 0x02#8 && t.reg VF == 0x80#8) = true := by decide
/-- T-A45. -/
theorem test_shl_VF : ran (boot [(15, 0xC1#8)]) 0x8F0E (fun t => t.reg VF == 0x00#8) = true := by decide
/-- T-J3. -/
theorem test_ldI : ran { State.reset with i := 0x1234#16 } 0xA000 (fun t => t.i == 0x0000#16) = true := by decide
/-- T-J6: not masked to 12 bits. -/
theorem test_jpV0 : ran (boot [(0, 0xFF#8)]) 0xBFFF (fun t => t.pc == 0x10FE#16) = true := by decide
/-- T-J12, for the draw it states: `VF` as destination. -/
theorem test_rnd : (rndWith 0xFF#8 15 0x55#8 State.reset).reg VF = 0x55#8 := by decide
/-- T-J11: `kk = 0` gives 0 whatever the draw. -/
theorem test_rnd_of_no_bit : ran (boot [(0, 0x99#8)]) 0xC000 (fun t => t.draws == 1 && t.pc == 0x202#16) = true := by decide
/-- T-D5: outside the grid, unchanged. -/
theorem test_drw : ran { placed (boot [(1, 0x3E#8), (2, 0x1F#8)]) 0x300 [0x81#8] with i := 0x300#16 } 0xD121 (fun t => t.events == [.point 62 31, .point 69 31] && t.reg VF == 0x00#8) = true := by decide
/-- T-D7, T-E6. -/
theorem test_drw_past_memory : ran { placed (boot [(0, 0x01#8), (1, 0x02#8)]) 0xFFF [0x80#8] with i := 0xFFF#16 } 0xD012 (fun t => faultedAs t (.memoryFault .read 0x1000) 0xD012#16 && t.events == []) = true := by decide
/-- T-K9: the key is not consumed. -/
theorem test_skp : ran { (boot [(15, 0x0A#8)]) with key := 0x0A } 0xEF9E (fun t => t.pc == 0x204#16 && t.key == 0x0A) = true := by decide
/-- 2.7, `KEY_W = 16`: no reduction of the key. -/
theorem test_skp_wide_key : ran { (boot [(1, 0x41#8)]) with key := 0x0141, params := { Params.defaults with keyWidth := 16 } } 0xE19E (fun t => t.pc == 0x202#16) = true := by decide
/-- T-K7. -/
theorem test_sknp : ran { (boot [(1, 0x01#8)]) with key := 0x41 } 0xE1A1 (fun t => t.pc == 0x204#16) = true := by decide
/-- T-X1: the decremented timer is read. -/
theorem test_ldVxDT : ran { State.reset with dt := 5 } 0xF107 (fun t => t.reg 1 == 0x04#8 && t.dt == 0x04#8) = true := by decide
/-- 2.7, `KEY_W = 16`: the low 8 bits. -/
theorem test_ldVxK : ran { State.reset with key := 0x0141, params := { Params.defaults with keyWidth := 16 } } 0xF10A (fun t => t.reg 1 == 0x41#8 && t.key == 0x0141 && t.pc == 0x202#16) = true := by decide
/-- T-X4. -/
theorem test_ldDT : ran { (boot [(1, 0x10#8)]) with dt := 5 } 0xF115 (fun t => t.dt == 0x10#8) = true := by decide
/-- T-X6. -/
theorem test_ldST : ran { (boot [(1, 0x03#8)]) with dt := 2 } 0xF118 (fun t => t.st == 0x03#8 && t.dt == 0x01#8) = true := by decide
/-- T-X12. -/
theorem test_addI : ran { (boot [(1, 0x02#8)]) with i := 0xFFFF#16 } 0xF11E (fun t => t.i == 0x0001#16 && t.reg VF == 0x00#8) = true := by decide
/-- T-X17: not masked to a digit. -/
theorem test_ldF : ran (boot [(1, 0xFF#8)]) 0xF129 (fun t => t.i == 0x04FB#16) = true := by decide
/-- T-M7: the last legal I. -/
theorem test_ldB : ran { (boot [(1, 0xC8#8)]) with i := 0xFFD#16 } 0xF133 (fun t => t.mem.read 0xFFD == 0x02#8 && t.mem.read 0xFFE == 0x00#8 && t.mem.read 0xFFF == 0x00#8) = true := by decide
/-- T-M8. -/
theorem test_ldB_past_memory : ran { placed (boot [(1, 0x7B#8)]) 0xFFE [0xEE#8, 0xEE#8] with i := 0xFFE#16 } 0xF133 (fun t => faultedAs t (.memoryFault .write 0x1000) 0xF133#16 && t.mem.read 0xFFE == 0xEE#8) = true := by decide
/-- T-M9. -/
theorem test_storeRegs : ran { (boot [(0, 0x11#8), (1, 0x22#8), (2, 0x33#8), (3, 0x44#8), (4, 0x55#8)]) with i := 0x400#16 } 0xF355 (fun t => t.mem.read 0x400 == 0x11#8 && t.mem.read 0x403 == 0x44#8 && t.mem.read 0x404 == 0x00#8 && t.i == 0x400#16) = true := by decide
/-- T-M12, T-E5. -/
theorem test_storeRegs_past_memory : ran { placed (boot [(0, 0x01#8), (1, 0x02#8)]) 0xFFF [0xEE#8] with i := 0xFFF#16 } 0xF155 (fun t => faultedAs t (.memoryFault .write 0x1000) 0xF155#16 && t.mem.read 0xFFF == 0xEE#8) = true := by decide
/-- T-M19: reads the font. -/
theorem test_loadRegs : ran { State.reset with i := 0x000#16 } 0xF165 (fun t => t.reg 0 == 0xF0#8 && t.reg 1 == 0x90#8) = true := by decide
/-- T-M17. -/
theorem test_loadRegs_past_memory : ran { (boot [(0, 0x07#8)]) with i := 0xFFD#16 } 0xF365 (fun t => faultedAs t (.memoryFault .read 0x1000) 0xF365#16 && t.reg 0 == 0x07#8) = true := by decide

/-! ## The tick, reset, the loader, the monitor -/

/-- The next state of a step meets `p`. -/
def stepped (s : State) (p : State → Bool) : Bool :=
  match step s with
  | .next t => p t
  | .fault _ => false
  | .refused _ => false

/-- T-T3, T-E4: the timers are decremented before the fetch faults. -/
theorem test_fetch_past_memory :
    stepped { State.reset with pc := 0xFFF#16, dt := 5, st := 2 } (fun t => t == { State.reset with
      pc := 0xFFF#16, dt := 4, st := 1, halted := true, fault := some ⟨.memoryFault .fetch 0xFFF, 0xFFF#16, none⟩ }) =
      true := by decide

/-- T-T5. -/
theorem test_illegal_word : ran { State.reset with dt := 5 } 0xFFFF (fun t => faultedAs t (.decodeFault 0xF#4 0xFFF#12) 0xFFFF#16 && t.dt == 0x04#8) = true := by decide
/-- T-T6. -/
theorem test_odd_pc : ran { State.reset with pc := 0x201#16 } 0x6007 (fun t => t.pc == 0x203#16 && t.reg 0 == 0x07#8) = true := by decide
/-- T-R1: a font byte comes back, a byte above the font stays. -/
theorem test_reset :
    let s := placed (placed { State.reset with halted := true, sp := 5, key := 0x41 } 0 [0x00#8]) 0x300 [0x99#8]
    s.resetCore.mem.read 0x000 = 0xF0#8 ∧ s.resetCore.mem.read 0x300 = 0x99#8 ∧ s.resetCore.sp = 0 ∧
    s.resetCore.key = 0x00 ∧ s.resetCore.halted = false := by
  refine ⟨?_, ?_, rfl, rfl, rfl⟩
  · rw [State.read_resetCore_font _ _ (by decide)]; decide
  · rw [State.read_resetCore_above _ _ (by decide)]; decide

/-- A machine whose parameters are none of the defaults: a wide key buffer, another font, another empty key. -/
def other : Parameters := ⟨Vector.replicate 80 0x5A#8, 16, 0x1FF⟩

/-- 00_scope.md R5: the host's reset loads the parameters of the machine that booted, not the defaults. -/
theorem test_reset_of_other_parameters :
    ∃ t, step { State.reset with params := other, key := 0x41, schedule := [.reset] } = .next t ∧
      t.key = 0x1FF ∧ t.mem.read 0x04F = 0x5A#8 :=
  ⟨_, rfl, rfl, (State.read_resetCore_font _ 0x04F (by decide)).trans (by decide)⟩

/-- 10_state.md R31, `KEY_W = 16`: a 16-bit code is kept whole; at the default width the code keeps 8 bits. -/
theorem test_key_width :
    (({ State.reset with params := other } : State).pressKey 0x0141).key = 0x0141 ∧ (State.reset.pressKey 0x0141).key = 0x41 := by
  decide
/-- T-R2: an image that does not fill its last word. -/
theorem test_loader :
    State.reset.loadProgram (some [0x12#8, 0x00#8, 0xFF#8]) = .ok (placed State.reset 0x200 [0x12#8, 0x00#8, 0xFF#8]) := by
  decide

/-- A monitor with one breakpoint and one watchpoint, in a mode, with lines waiting. -/
def monitorWith (mode : MonitorMode) (console : List Command) : Monitor :=
  { Monitor.off with
    enabled := true, mode := mode, breakpoints := [⟨0, 0x200#16⟩], watchpoints := [⟨0, 0xA20A#16⟩], console := console }

/-- T-G1: the breakpoint arms the monitor and no tick runs. -/
theorem test_breakpoint :
    stepped { State.reset with dt := 2, monitor := monitorWith .ignoring [] }
      (fun t => t == { State.reset with dt := 2, monitor := monitorWith .armed [] }) = true := by decide
/-- T-G2: the watchpoint, at the word before it is executed. -/
theorem test_watchpoint :
    stepped (placed { State.reset with pc := 0x202#16, monitor := monitorWith .ignoring [] } 0x202 [0xA2#8, 0x0A#8])
      (fun t => t.pc == 0x202#16 && t.i == 0x0000#16 && t.monitor.mode == .armed) = true := by decide
/-- T-G4: `g` takes the address modulo 65536 and runs no tick. -/
theorem test_goto :
    stepped { State.reset with dt := 2, monitor := monitorWith .armed [.goto 0x12345] }
      (fun t => t == { State.reset with dt := 2, pc := 0x2345#16, monitor := monitorWith .armed [] }) = true := by decide
/-- The sink: a point outside the grid, under each policy of `DISPLAY_OOR` (45_draw.md R154). -/
theorem test_sink_outside_the_grid :
    (Picture.blank.draw .drop (.point 69 31) = some Picture.blank) ∧
    (Picture.blank.draw .wrap (.point 69 31) = some (Picture.blank.light 5 31)) ∧
    (Picture.blank.draw .refuse (.point 69 31) = none) := by decide


/-! ## Witnesses: for every statement with hypotheses, a state and operands that meet them, each clause at the
boundary of its range -/

theorem witness_DecodeOfEncodeIsTheInstruction : (Instr.sys 0x0E1#12).WellFormed ∧ (Instr.drw 15 15 0xF#4).WellFormed := by
  decide
theorem witness_EncodeOfDecodeIsTheWord :
    decodeWord 0x00E1#16 = .ok (.sys 0x0E1#12) ∧ decodeWord 0xFF65#16 = .ok (.loadRegs 15) := by decide
theorem witness_EveryRowOfTheTableDecodes : (0x0E1#12 : Addr) ≠ 0x0E0#12 ∧ (0x0E1#12 : Addr) ≠ 0x0EE#12 := by decide
theorem witness_ResetOperationSetsEveryElement : 79 < 80 ∧ 80 ≤ 80 := by decide
theorem witness_LoaderPlacesTheImageOrFails :
    (List.replicate 3584 0x12#8).length ≤ 3584 ∧ 3584 < (List.replicate 3585 0x12#8).length := by
  simp only [List.length_replicate]; decide
theorem witness_BootLaysOutMemory : (List.replicate 3584 0x12#8).length ≤ 3584 ∧ 4095 < 4096 := by
  simp only [List.length_replicate]; decide

/-- A core whose turn it is, at the last word of memory: it holds `CALL 0x300`. -/
def lastWord : State := placed { State.reset with pc := 0xFFE#16 } 0xFFE [0x23#8, 0x00#8]

theorem witness_StepRunsTheDecodedInstruction :
    Ready lastWord ∧ lastWord.monitor.enabled = false ∧ lastWord.pc.toNat + 1 ≤ 0xFFF ∧
    decodeWord (wordOfBytes (lastWord.mem.read lastWord.pc.toNat) (lastWord.mem.read (lastWord.pc.toNat + 1))) =
      .ok (.call 0x300#12) := ⟨⟨rfl, rfl, rfl⟩, rfl, by decide, by decide⟩
theorem witness_FetchPastMemoryFaults :
    let s : State := { State.reset with pc := 0xFFF#16 }
    Ready s ∧ s.monitor.enabled = false ∧ 0xFFF < s.pc.toNat + 1 := ⟨⟨rfl, rfl, rfl⟩, rfl, by decide⟩
theorem witness_IllegalWordFaults :
    let s := placed { State.reset with pc := 0xFFE#16 } 0xFFE [0x51#8, 0x21#8]
    Ready s ∧ s.monitor.enabled = false ∧ s.pc.toNat + 1 ≤ 0xFFF ∧
    decodeWord (wordOfBytes (s.mem.read s.pc.toNat) (s.mem.read (s.pc.toNat + 1))) = .error (.illegal 0x5#4 0x121#12) :=
  ⟨⟨rfl, rfl, rfl⟩, rfl, by decide, by decide⟩

/-- A core halted by a `RET` with an empty stack, and whose turn comes next. -/
def halted (turns : List Turn) : State :=
  { State.reset with halted := true, fault := some ⟨.stackUnderflow, 0x200#16, some 0x00EE#16⟩, schedule := turns }

theorem witness_HaltedCoreIsFrozen :
    ((halted []).halted = true ∧ (halted []).ended = false ∧ (halted []).schedule = []) ∧
    ((halted [.core]).halted = true ∧ (halted [.core]).ended = false ∧ (halted [.core]).schedule = [.core]) ∧
    ((halted [.key 1]).halted = true ∧ (halted [.key 1]).ended = false ∧ (halted [.key 1]).schedule = [.key 1] ∧
      Turn.key 1 ≠ .reset ∧ Turn.key 1 ≠ .close) := by decide
theorem witness_OnlyResetLeavesHalted :
    ∃ t, (halted [.reset]).halted = true ∧ step (halted [.reset]) = .next t ∧ t.halted = false := ⟨_, rfl, rfl, rfl⟩
theorem witness_EndedRunHasNoStep :
    ({ State.reset with ended := true } : State).ended = true ∧
    ({ State.reset with schedule := [.close] } : State).ended = false ∧
    ({ State.reset with schedule := [.close] } : State).schedule = [.close] := by decide
theorem witness_InputAgentWritesOnlyTheKeyBuffer :
    let s : State := { State.reset with schedule := [.key 0xFF] }
    s.ended = false ∧ s.halted = false ∧ s.schedule = [.key 0xFF] ∧ 0xFF < 2 ^ s.params.keyWidth := by decide

/-- Halted by an access to the first address that does not exist, with the largest point drawn, a byte listed in memory,
a wide key buffer, an entry in each list of the monitor, and a key press to come. -/
def laden : State :=
  { State.reset with
    mem := [(0xFFF, 0xEE#8)]
    halted := true
    fault := some ⟨.memoryFault .write 0x1000, 0x200#16, some 0xF155#16⟩
    events := [.clear, .point 262 269]
    params := other
    key := 0xFFFF
    monitor := monitorWith .armed []
    schedule := [.key 0x41] }

theorem witness_EveryStepKeepsTheInvariant : ∃ t, Inv laden ∧ step laden = .next t := by
  refine ⟨_, ⟨by decide, rfl, ?_, ?_, ?_, by decide, by decide, ⟨by decide, rfl⟩, ⟨by decide, rfl⟩⟩, rfl⟩
  · intro r h; cases h; simp
  · intro r k a h hc; cases h; cases hc; decide
  · intro e he; simp only [laden, List.mem_cons, List.not_mem_nil, or_false] at he
    rcases he with rfl | rfl
    · trivial
    · exact ⟨by decide, by decide⟩

theorem witness_EveryTickKeepsThePcBound :
    ∃ t, PcBounded { lastWord with sp := 1, stack := lastWord.stack.set 0 0x1000#16 } ∧
      tick { lastWord with sp := 1, stack := lastWord.stack.set 0 0x1000#16 } = .next t :=
  ⟨_, ⟨by decide, by decide⟩, rfl⟩

/-- One instruction meets the hypothesis of every clause; a `CALL` and the stores do at the edges of what they write. -/
theorem witness_InstructionsChangeOnlyWhatTheirRowsName :
    let i := Instr.ldImm 0 0x05#8
    ((∃ t, exec i State.reset = .next t) ∧ writesReg i 1 = false ∧ ¬ storesAt i State.reset 0 ∧ ¬ writesIndex i ∧
      ¬ writesPc i ∧ (∀ a, i ≠ .call a) ∧ i ≠ .ret ∧ (∀ x, i ≠ .ldDT x) ∧ (∀ x, i ≠ .ldST x) ∧ i ≠ .cls ∧
      (∀ x y n, i ≠ .drw x y n) ∧ (∀ x kk, i ≠ .rnd x kk) ∧ faultOf i State.reset = none) ∧
    ((∃ t, exec (.storeRegs 2) State.reset = .next t) ∧ ¬ storesAt (.storeRegs 2) State.reset 3) ∧
    ((∃ t, exec (.ldB 2) State.reset = .next t) ∧ ¬ storesAt (.ldB 2) State.reset 3) ∧
    ((∃ t, exec (.call 0x300#12) State.reset = .next t) ∧ (1 : Fin 16).val ≠ State.reset.sp.val) := by
  refine ⟨⟨⟨_, rfl⟩, by decide, ?_, ?_, ?_, ?_, ?_, ?_, ?_, ?_, ?_, ?_, rfl⟩, ⟨⟨_, rfl⟩, ?_⟩, ⟨⟨_, rfl⟩, ?_⟩, ⟨_, rfl⟩,
    by decide⟩
  all_goals simp [storesAt, writesIndex, writesPc, State.dataAddr, State.reset]
/-- Each row of R202's table just inside and just outside its condition. -/
theorem witness_InstructionsFaultExactlyAsListed :
    let at_ (i : Word) : State := { State.reset with i := i }
    faultOf (.call 0#12) { State.reset with sp := 16 } = some .stackOverflow ∧
    faultOf (.call 0#12) { State.reset with sp := 15 } = none ∧
    faultOf .ret State.reset = some .stackUnderflow ∧ faultOf .ret { State.reset with sp := 1 } = none ∧
    faultOf (.drw 0 0 0xF#4) (at_ 0xFF2#16) = some (.memoryFault .read 0x1000) ∧
    faultOf (.drw 0 0 0xF#4) (at_ 0xFF1#16) = none ∧ faultOf (.drw 0 0 0x0#4) (at_ 0xFFFF#16) = none ∧
    faultOf (.ldB 0) (at_ 0xFFE#16) = some (.memoryFault .write 0x1000) ∧ faultOf (.ldB 0) (at_ 0xFFD#16) = none ∧
    faultOf (.storeRegs 15) (at_ 0xFF1#16) = some (.memoryFault .write 0x1000) ∧
    faultOf (.storeRegs 15) (at_ 0xFF0#16) = none ∧
    faultOf (.loadRegs 0) (at_ 0xFFFF#16) = some (.memoryFault .read 0xFFFF) ∧
    faultOf (.loadRegs 0) (at_ 0xFFF#16) = none ∧ State.reset.halted = false := by decide

theorem witness_EveryTickDecrementsTheTimers :
    let ld := placed State.reset 0x200 [0xF1#8, 0x15#8]
    let sd := placed State.reset 0x200 [0xF1#8, 0x18#8]
    (∃ t, tick ld = .next t) ∧ ld.fetch = some 0xF115#16 ∧ decodeWord 0xF115#16 = .ok (.ldDT 1) ∧
    (∃ t, tick sd = .next t) ∧ sd.fetch = some 0xF118#16 ∧ decodeWord 0xF118#16 = .ok (.ldST 1) ∧
    (∃ t, tick lastWord = .next t) ∧ lastWord.fetch = some 0x2300#16 ∧
    (∀ x, decodeWord 0x2300#16 ≠ .ok (.ldDT x)) ∧ (∀ x, decodeWord 0x2300#16 ≠ .ok (.ldST x)) :=
  ⟨⟨_, rfl⟩, by decide, by decide, ⟨_, rfl⟩, by decide, by decide, ⟨_, rfl⟩, by decide, by decide, by decide⟩

theorem witness_DelayTimerCountsInstructions : ∃ t, TickRun (fun i => ∀ x, i ≠ .ldDT x) 1 lastWord t :=
  ⟨_, .more (w := 0x2300#16) (i := .call 0x300#12) rfl (by decide) (by decide) (by decide) rfl (.none _)⟩

theorem witness_SoundTimerIsNeverRead : (∃ t, exec (.ldST 3) State.reset = .next t) ∧ ∃ t, exec (.ldVxDT 3) State.reset = .next t :=
  ⟨⟨_, rfl⟩, ⟨_, rfl⟩⟩
theorem witness_DisplayIsNeverRead : ∃ t, exec (.drw 0 1 5#4) { State.reset with events := [.clear] } = .next t := ⟨_, rfl⟩
theorem witness_MonitorIsInvisibleToInstructions :
    ∃ t, exec (.seImm 0 0#8) { State.reset with monitor := monitorWith .armed [] } = .next t := ⟨_, rfl⟩
theorem witness_StoresAreSeenByTheNextFetch :
    let s : State := { State.reset with i := 0xFFE#16, pc := 0xFFE#16 }
    1 ≤ (1 : Reg).val ∧ s.i = s.pc ∧ s.i.toNat + (1 : Reg).val ≤ 0xFFF ∧ ∃ t, exec (.storeRegs 1) s = .next t :=
  ⟨by decide, rfl, by decide, ⟨_, rfl⟩⟩

theorem witness_RetPopsOrUnderflows :
    ({ State.reset with sp := 1 } : State).sp.val = (0 : Fin 16).val + 1 ∧
    ({ State.reset with sp := 16 } : State).sp.val = (15 : Fin 16).val + 1 ∧
    State.reset.halted = false ∧ State.reset.sp.val = 0 := by decide
theorem witness_CallPushesOrOverflows :
    State.reset.sp.val < 16 ∧ ({ State.reset with sp := 15 } : State).sp.val < 16 ∧
    ({ State.reset with sp := 16 } : State).halted = false ∧ ({ State.reset with sp := 16 } : State).sp.val = 16 := by decide
theorem witness_RetUndoesCall :
    let s : State := { State.reset with sp := 15 }
    s.sp.val < 16 ∧ ∃ t, exec (.call 0xFFF#12) s = .next t := ⟨by decide, ⟨_, rfl⟩⟩
theorem witness_RegisterSkipsAddTwo :
    (boot [(1, 7#8), (2, 7#8)]).reg 1 = 7#8 ∧ (boot [(1, 7#8), (2, 7#8)]).reg 1 ≠ 8#8 ∧
    (boot [(1, 7#8), (2, 7#8)]).reg 1 = (boot [(1, 7#8), (2, 7#8)]).reg 2 ∧
    (boot [(1, 7#8), (2, 8#8)]).reg 1 ≠ (boot [(1, 7#8), (2, 8#8)]).reg 2 := by decide
theorem witness_KeySkipsAreComplementary :
    State.reset.key = (State.reset.reg 0).toNat ∧
    ({ State.reset with key := 0x100 } : State).key ≠ (State.reset.reg 0).toNat := by decide
/-- The aliasing cases of the tables of R136, R137, R138. -/
theorem witness_ShrByItsTable_SubnByItsTable_ShlFlagIsTheMaskedBit :
    ((14 : Reg) ≠ 15 ∧ (13 : Reg) ≠ 15) ∧ ((14 : Reg) = 14 ∧ (14 : Reg) ≠ 15) ∧ ((15 : Reg) = 15 ∧ (14 : Reg) ≠ 15) := by decide

theorem witness_DrwEmitsTheLitPixels :
    (0x0#4 : Nibble).toNat = 0 ∧ ({ State.reset with i := 0xFF1#16 } : State).i.toNat + (0xF#4 : Nibble).toNat - 1 ≤ 0xFFF := by
  decide
theorem witness_DrwPastMemoryFaults :
    let s : State := { State.reset with i := 0xFFF#16 }
    s.halted = false ∧ 0 < (0x2#4 : Nibble).toNat ∧ 0xFFF < s.i.toNat + (0x2#4 : Nibble).toNat - 1 := by decide
theorem witness_PointsNeverClearAPixel :
    ∃ g', Picture.drawAll .drop (Picture.blank.light 63 31) (spritePoints [(0x300, 0x80#8)] 0x300 1 3 3) = some g' ∧
      ((Picture.blank.light 63 31).get 63).get 31 = true := ⟨_, rfl, by decide⟩

theorem witness_BcdStoresTheDigits :
    ({ State.reset with i := 0xFFD#16 } : State).i.toNat + 2 ≤ 0xFFF ∧
    ({ State.reset with i := 0xFFE#16 } : State).halted = false ∧ 0xFFF < ({ State.reset with i := 0xFFE#16 } : State).i.toNat + 2 := by
  decide
/-- Both boundaries of the range, and the first and the last register of the run: the same hypotheses serve the load. -/
theorem witness_StoreWritesTheRegisterRun_LoadReadsTheRegisterRun :
    ({ State.reset with i := 0xFF0#16 } : State).i.toNat + (15 : Reg).val ≤ 0xFFF ∧ (0 : Reg) ≤ 15 ∧ (15 : Reg) ≤ 15 ∧
    ({ State.reset with i := 0xFF1#16 } : State).halted = false ∧
    0xFFF < ({ State.reset with i := 0xFF1#16 } : State).i.toNat + (15 : Reg).val := by decide
theorem witness_StoreThenLoadRoundTrip :
    let s : State := { State.reset with i := 0xFF0#16 }
    s.i.toNat + (15 : Reg).val ≤ 0xFFF ∧ ∃ t, exec (.storeRegs 15) s = .next t := ⟨by decide, ⟨_, rfl⟩⟩

/-- A ready core whose monitor prompts, with these lines waiting. -/
def held (console : List Command) : State := { State.reset with monitor := monitorWith .armed console }

theorem held_ready (console : List Command) : Ready (held console) ∧ Prompting (held console) :=
  ⟨⟨rfl, rfl, rfl⟩, rfl, .inl rfl⟩

theorem witness_HeldCoreStandsStill :
    (Ready (held []) ∧ Prompting (held []) ∧ (held []).monitor.console = []) ∧
    (Ready (held [.dump 0 16]) ∧ Prompting (held [.dump 0 16]) ∧ (held [.dump 0 16]).monitor.console = [.dump 0 16] ∧
      Command.dump 0 16 ≠ .next ∧ Command.dump 0 16 ≠ .run ∧ Command.dump 0 16 ≠ .reset ∧ Command.dump 0 16 ≠ .quit ∧
      ∀ a, Command.dump 0 16 ≠ .goto a) :=
  ⟨⟨(held_ready _).1, (held_ready _).2, rfl⟩, (held_ready _).1, (held_ready _).2, rfl, by decide, by decide, by decide,
    by decide, by simp⟩
/-- The breakpoint at `0x200`; the watchpoint at the last word of memory. -/
theorem witness_HitForcesAPrompt :
    let s : State := { State.reset with monitor := monitorWith .ignoring [] }
    let t := placed { s with pc := 0xFFE#16 } 0xFFE [0xA2#8, 0x0A#8]
    (Ready s ∧ s.monitor.enabled = true ∧ s.monitor.console = [] ∧ ∃ e ∈ s.monitor.breakpoints, e.value = s.pc) ∧
    (Ready t ∧ t.monitor.enabled = true ∧ t.monitor.console = [] ∧ t.pc.toNat + 1 ≤ 0xFFF ∧
      ∃ e ∈ t.monitor.watchpoints, e.value = wordOfBytes (t.mem.read t.pc.toNat) (t.mem.read (t.pc.toNat + 1))) :=
  ⟨⟨⟨rfl, rfl, rfl⟩, rfl, rfl, by decide⟩, ⟨rfl, rfl, rfl⟩, rfl, rfl, by decide, by decide⟩
theorem witness_MonitorCommandsActOnTheCore :
    (Ready (held [.goto 0x12345]) ∧ Prompting (held [.goto 0x12345])) ∧ (Ready (held [.next]) ∧ Prompting (held [.next])) ∧
    (Ready (held [.run]) ∧ Prompting (held [.run])) ∧ (Ready (held [.quit]) ∧ Prompting (held [.quit])) :=
  ⟨held_ready _, held_ready _, held_ready _, held_ready _⟩
theorem witness_NextPromptsAgain :
    ∃ t, Ready (held [.next]) ∧ Prompting (held [.next]) ∧ (held [.next]).monitor.console = [.next] ∧
      step (held [.next]) = .next t := ⟨_, (held_ready _).1, (held_ready _).2, rfl, rfl⟩
theorem witness_MonitorResetRestartsTheProgram :
    Ready (held [.reset]) ∧ Prompting (held [.reset]) ∧ (held [.reset]).monitor.console = [.reset] :=
  ⟨(held_ready _).1, (held_ready _).2, rfl⟩

/-- A prompting monitor with this many entries in both lists. -/
def heldWith (entries : Nat) (c : Command) : State :=
  { State.reset with
    monitor := { monitorWith .armed [c] with
      breakpoints := List.replicate entries ⟨0, 0x300#16⟩, watchpoints := List.replicate entries ⟨0, 0x1300#16⟩ } }

theorem heldWith_ready (entries : Nat) (c : Command) : Ready (heldWith entries c) ∧ Prompting (heldWith entries c) :=
  ⟨⟨rfl, rfl, rfl⟩, rfl, .inl rfl⟩

theorem heldWith_meets (c : Command) :
    Ready (heldWith 254 c) ∧ Prompting (heldWith 254 c) ∧ Ready (heldWith 255 c) ∧ Prompting (heldWith 255 c) ∧
    (heldWith 254 c).monitor.console = [c] ∧ (heldWith 255 c).monitor.console = [c] ∧
    (heldWith 254 c).monitor.breakpoints.length < 255 ∧ (heldWith 254 c).monitor.watchpoints.length < 255 ∧
    255 ≤ (heldWith 255 c).monitor.breakpoints.length ∧ 255 ≤ (heldWith 255 c).monitor.watchpoints.length := by
  refine ⟨(heldWith_ready _ c).1, (heldWith_ready _ c).2, (heldWith_ready _ c).1, (heldWith_ready _ c).2, rfl, rfl, ?_⟩
  simp only [heldWith, List.length_replicate]; decide

theorem witness_FullListsRefuse :
    (Ready (heldWith 254 (.breakpoint 0x400#16)) ∧ Prompting (heldWith 254 (.breakpoint 0x400#16)) ∧
      (heldWith 254 (.breakpoint 0x400#16)).monitor.console = [.breakpoint 0x400#16] ∧
      (heldWith 254 (.breakpoint 0x400#16)).monitor.breakpoints.length < 255) ∧
    (Ready (heldWith 255 (.watchpoint 0x400#16)) ∧ Prompting (heldWith 255 (.watchpoint 0x400#16)) ∧
      (heldWith 255 (.watchpoint 0x400#16)).monitor.console = [.watchpoint 0x400#16] ∧
      255 ≤ (heldWith 255 (.watchpoint 0x400#16)).monitor.watchpoints.length) ∧
    255 ≤ (heldWith 255 (.breakpoint 0x400#16)).monitor.breakpoints.length ∧
    (heldWith 254 (.watchpoint 0x400#16)).monitor.watchpoints.length < 255 := by
  have h := heldWith_meets (.breakpoint 0x400#16)
  have k := heldWith_meets (.watchpoint 0x400#16)
  exact ⟨⟨h.1, h.2.1, h.2.2.2.2.1, h.2.2.2.2.2.2.1⟩, ⟨k.2.2.1, k.2.2.2.1, k.2.2.2.2.2.1, k.2.2.2.2.2.2.2.2.2⟩,
    h.2.2.2.2.2.2.2.2.1, k.2.2.2.2.2.2.2.1⟩
/-- The monitor is on, with an entry in each list that does not match. -/
theorem witness_IgnoringMonitorChangesNothing :
    let s : State := { State.reset with pc := 0x202#16, monitor := monitorWith .ignoring [] }
    Ready s ∧ s.monitor.mode = .ignoring ∧ s.monitorHit = false ∧ s.monitor.enabled = true ∧
    Monitor.off.enabled = false := ⟨⟨rfl, rfl, rfl⟩, rfl, by decide, rfl, rfl⟩

end Sys2Proof.Tests
end

section
/-! The field views of a word against the documented masks (30_encoding.md R72). -/

namespace Sys2Proof

/-- Masking with the `n` low bits set keeps the remainder by `2 ^ n`. -/
theorem and_lowMask_toNat (w m : Word) (n : Nat) (hm : m.toNat = 2 ^ n - 1) :
    (w &&& m).toNat = w.toNat % 2 ^ n := by
  rw [BitVec.toNat_and, hm, Nat.and_two_pow_sub_one_eq_mod]

/-- A shift followed by such a mask: the number of the field of `n` bits at bit `s`. -/
theorem ushiftRight_and_lowMask_toNat (w m : Word) (s n : Nat) (hm : m.toNat = 2 ^ n - 1) :
    ((w >>> s) &&& m).toNat = w.toNat / 2 ^ s % 2 ^ n := by
  rw [and_lowMask_toNat _ _ n hm, BitVec.toNat_ushiftRight, Nat.shiftRight_eq_div_pow]

/-- A view of at most 16 bits is the word that has its number. -/
theorem setWidth_word_eq_of_toNat_eq {k : Nat} (f : BitVec k) (v : Word) (hk : k ≤ 16) (h : f.toNat = v.toNat) :
    f.setWidth 16 = v :=
  BitVec.eq_of_toNat_eq ((BitVec.toNat_setWidth_of_le hk).trans h)

/-- Settles O4: each field and its mask have the same number, a quotient and remainder of the word's. -/
theorem fieldsAreTheDocumentedMasks : Obligations.FieldsAreTheDocumentedMasks := by
  intro w
  refine ⟨setWidth_word_eq_of_toNat_eq _ _ (by decide) ?op, ?x, ?y,
    setWidth_word_eq_of_toNat_eq _ _ (by decide) ?n, setWidth_word_eq_of_toNat_eq _ _ (by decide) ?kk,
    setWidth_word_eq_of_toNat_eq _ _ (by decide) ?addr⟩
  case op =>
    have := w.isLt
    rw [fieldsOf_op, ushiftRight_and_lowMask_toNat w _ 12 4 rfl]
    omega
  case x => exact (fieldsOf_x w).trans (ushiftRight_and_lowMask_toNat w _ 8 4 rfl).symm
  case y => exact (fieldsOf_y w).trans (ushiftRight_and_lowMask_toNat w _ 4 4 rfl).symm
  case n => exact (fieldsOf_n w).trans (and_lowMask_toNat w _ 4 rfl).symm
  case kk => exact (fieldsOf_kk w).trans (and_lowMask_toNat w _ 8 rfl).symm
  case addr => exact (fieldsOf_addr w).trans (and_lowMask_toNat w _ 12 rfl).symm

end Sys2Proof
end

section
/-! Families 0, 1, 2: what the call stack answers in each case, and what `CLS`, `RET`, `SYS`, `JP` and `CALL` do
(40_flow.md R100 to R104). -/

namespace Sys2Proof.Machine

/-! ## The call stack, the fault and the jump, a case at a time -/

/-- With `k + 1` entries in use, entry `k` is the one popped. -/
theorem State.pop_of_sp_eq_succ (s : State) (k : Fin 16) (h : s.sp.val = k.val + 1) :
    s.pop = some (s.stack.get k, { s with sp := k.castSucc }) := by
  rcases s.pop_spec with ⟨h0, -⟩ | ⟨j, t, hj, hpop, hsp, ht⟩
  · omega
  · obtain rfl : j = k := Fin.ext (by omega)
    have hsp : t.sp = j.castSucc := Fin.ext hsp
    rw [hpop, ht, hsp]

theorem State.pop_of_sp_eq_zero (s : State) (h : s.sp.val = 0) : s.pop = none := by
  rcases s.pop_spec with ⟨-, hpop⟩ | ⟨k, -, hk, -⟩
  · exact hpop
  · omega

/-- With an entry free, the push writes entry `SP` and counts it. -/
theorem State.push_of_sp_lt (s : State) (w : Word) (h : s.sp.val < 16) :
    ∃ t, s.push w = some t ∧ t.sp.val = s.sp.val + 1 ∧
      (∀ k : Fin 16, t.stack.get k = if k.val = s.sp.val then w else s.stack.get k) ∧
      t = { s with stack := t.stack, sp := t.sp } := by
  rcases s.push_spec w with ⟨h16, -⟩ | hpush
  · omega
  · exact hpush

theorem State.push_of_sp_eq_sixteen (s : State) (w : Word) (h : s.sp.val = 16) : s.push w = none := by
  rcases s.push_spec w with ⟨-, hpush⟩ | ⟨t, -, hsp, -⟩
  · exact hpush
  · omega

/-- A fault inside an instruction leaves a running core in the state the claims name. -/
theorem State.raiseIn_eq_faulted (s : State) (c : FaultCause) (i : Instr) (h : s.halted = false) :
    s.raiseIn c i = s.faulted c i := s.raiseIn_running c i h

theorem PcOnly.jump (s : State) (w : Word) : PcOnly s (s.jump w) := ⟨fun _ => rfl, rfl⟩

/-! ## The five instructions -/

theorem exec_cls (s : State) : exec .cls s = .next { s with events := s.events ++ [.clear] } := rfl

theorem exec_sys (addr : Addr) (s : State) : exec (.sys addr) s = .next (s.jump (zextAddr addr)) := rfl

theorem exec_jp (addr : Addr) (s : State) : exec (.jp addr) s = .next (s.jump (zextAddr addr)) := rfl

theorem exec_ret_of_sp_eq_succ (s : State) (k : Fin 16) (h : s.sp.val = k.val + 1) :
    exec .ret s = .next { s with pc := s.stack.get k, sp := k.castSucc } := by
  change execRet s = _
  rw [execRet, s.pop_of_sp_eq_succ k h]
  rfl

theorem exec_ret_of_sp_eq_zero (s : State) (hrun : s.halted = false) (h : s.sp.val = 0) :
    exec .ret s = .next (s.faulted .stackUnderflow .ret) := by
  change execRet s = _
  rw [execRet, s.pop_of_sp_eq_zero h, ← s.raiseIn_eq_faulted _ _ hrun]

theorem exec_call_of_push (addr : Addr) (s t : State) (h : s.push s.pc = some t) :
    exec (.call addr) s = .next (t.jump (zextAddr addr)) := by
  change execCall addr s = _
  rw [execCall, h]

theorem exec_call_of_sp_eq_sixteen (addr : Addr) (s : State) (hrun : s.halted = false) (h : s.sp.val = 16) :
    exec (.call addr) s = .next (s.faulted .stackOverflow (.call addr)) := by
  change execCall addr s = _
  rw [execCall, s.push_of_sp_eq_sixteen _ h, ← s.raiseIn_eq_faulted _ _ hrun]

/-! ## The obligations -/

/-- Settles O30: the meaning of `CLS` is one emission, which reaches neither memory nor `pc`. -/
theorem clsEmitsClear : Obligations.ClsEmitsClear :=
  fun s => ⟨_, exec_cls s, rfl, fun _ => rfl⟩

/-- Settles O31, by the two answers of a pop. -/
theorem retPopsOrUnderflows : Obligations.RetPopsOrUnderflows :=
  ⟨fun s k h => ⟨_, exec_ret_of_sp_eq_succ s k h, rfl, rfl, rfl, fun _ => rfl⟩, exec_ret_of_sp_eq_zero⟩

/-- Settles O32: both instructions are the same jump, to `addr` with its number kept. -/
theorem sysAndJpSetPc : Obligations.SysAndJpSetPc :=
  fun addr s => ⟨⟨_, exec_sys addr s, zextAddr_toNat addr, .jump s _⟩, ⟨_, exec_jp addr s, zextAddr_toNat addr, .jump s _⟩⟩

/-- Settles O33, by the two answers of a push: the jump after it keeps the stack. -/
theorem callPushesOrOverflows : Obligations.CallPushesOrOverflows := by
  refine fun addr s => ⟨fun h => ?pushes, exec_call_of_sp_eq_sixteen addr s⟩
  obtain ⟨t, hpush, hsp, hstack, ht⟩ := s.push_of_sp_lt s.pc h
  have hjump : t.jump (zextAddr addr) = { s with pc := zextAddr addr, sp := t.sp, stack := t.stack } := by
    rw [State.jump, ht]
  refine ⟨_, exec_call_of_push addr s t hpush, zextAddr_toNat addr, hsp, hstack, hjump, fun a => ?_⟩
  rw [hjump]

end Sys2Proof.Machine
end

section
/-! Families 3, 4, 5, 9: the skips on registers (41_skips.md R110 to R113). -/

namespace Sys2Proof.Machine

/-! ## A skip, by its condition -/

theorem PcOnly.skipIf (s : State) (c : Bool) : PcOnly s (s.skipIf c) := ⟨fun _ => rfl, rfl⟩

theorem State.skipIf_pc_of_true (s : State) {c : Bool} (h : c = true) : (s.skipIf c).pc = s.pc + 2 := by
  rw [State.skipIf_pc, if_pos h]

theorem State.skipIf_pc_of_false (s : State) {c : Bool} (h : c = false) : (s.skipIf c).pc = s.pc := by
  rw [State.skipIf_pc, if_neg (Bool.eq_false_iff.mp h)]

/-- An instruction that is a skip on `c`, where `P` makes `c` true and `Q` makes it false: with `P` it adds 2 to `pc`,
with `Q` it leaves `pc`, and it writes nothing else. -/
theorem addsTwo_or_stays_of_exec_eq_skipIf {i : Instr} {s : State} {c : Bool} {P Q : Prop}
    (hexec : exec i s = .next (s.skipIf c)) (hskip : P → c = true) (hstay : Q → c = false) :
    ∃ t, exec i s = .next t ∧ PcOnly s t ∧ (P → t.pc = s.pc + 2) ∧ (Q → t.pc = s.pc) :=
  ⟨s.skipIf c, hexec, .skipIf s c, fun p => s.skipIf_pc_of_true (hskip p), fun q => s.skipIf_pc_of_false (hstay q)⟩

/-! ## The four instructions -/

theorem exec_seImm (x : Reg) (kk : Byte) (s : State) : exec (.seImm x kk) s = .next (s.skipIf (s.reg x == kk)) := rfl

theorem exec_sneImm (x : Reg) (kk : Byte) (s : State) : exec (.sneImm x kk) s = .next (s.skipIf (s.reg x != kk)) := rfl

theorem exec_seReg (x y : Reg) (s : State) : exec (.seReg x y) s = .next (s.skipIf (s.reg x == s.reg y)) := rfl

theorem exec_sneReg (x y : Reg) (s : State) : exec (.sneReg x y) s = .next (s.skipIf (s.reg x != s.reg y)) := rfl

/-! ## The obligation -/

/-- Settles O35: each instruction is a skip on the Boolean test of its comparison, which decides the equality. -/
theorem registerSkipsAddTwo : Obligations.RegisterSkipsAddTwo := by
  intro x y kk s
  refine ⟨?seImm, ?sneImm, ?seReg, ?sneReg⟩
  case seImm =>
    exact addsTwo_or_stays_of_exec_eq_skipIf (exec_seImm x kk s) beq_iff_eq.mpr beq_eq_false_iff_ne.mpr
  case sneImm =>
    exact addsTwo_or_stays_of_exec_eq_skipIf (exec_sneImm x kk s) bne_iff_ne.mpr bne_eq_false_iff_eq.mpr
  case seReg =>
    exact addsTwo_or_stays_of_exec_eq_skipIf (exec_seReg x y s) beq_iff_eq.mpr beq_eq_false_iff_ne.mpr
  case sneReg =>
    exact addsTwo_or_stays_of_exec_eq_skipIf (exec_sneReg x y s) bne_iff_ne.mpr bne_eq_false_iff_eq.mpr

end Sys2Proof.Machine
end

section
/-! Families 6, 7: load and add immediate (42_immediate.md R120, R121). -/

namespace Sys2Proof.Machine

/-! ## A write of one register -/

theorem State.reg_setReg_same (s : State) (x : Reg) (b : Byte) : (s.setReg x b).reg x = b := by
  rw [State.reg_setReg, if_pos rfl]

theorem State.reg_setReg_of_ne (s : State) {x z : Reg} (b : Byte) (h : z ≠ x) : (s.setReg x b).reg z = s.reg z := by
  rw [State.reg_setReg, if_neg h]

theorem RegsOnly.setReg (s : State) (x : Reg) (b : Byte) : RegsOnly (· = x) s (s.setReg x b) :=
  ⟨fun _ hz => s.reg_setReg_of_ne b hz, fun a => by rw [State.setReg_mem], s.setReg_eq x b⟩

/-- An instruction that is the write of `b` to `V[x]`, where `b` has the property `P`: `V[x]` then has it, and nothing
but `V[x]` is written. -/
theorem writes_reg_of_exec_eq_setReg {i : Instr} {s : State} {x : Reg} {b : Byte} {P : Byte → Prop}
    (hexec : exec i s = .next (s.setReg x b)) (hb : P b) :
    ∃ t, exec i s = .next t ∧ P (t.reg x) ∧ RegsOnly (· = x) s t :=
  ⟨s.setReg x b, hexec, (s.reg_setReg_same x b).symm ▸ hb, .setReg s x b⟩

/-! ## The two instructions -/

theorem exec_ldImm (x : Reg) (kk : Byte) (s : State) : exec (.ldImm x kk) s = .next (s.setReg x kk) := rfl

theorem exec_addImm (x : Reg) (kk : Byte) (s : State) : exec (.addImm x kk) s = .next (s.setReg x (s.reg x + kk)) := rfl

/-! ## The obligation -/

/-- Settles O37: each instruction is the write of one register, and the sum of two bytes is taken modulo 256. -/
theorem immediatesWriteOneRegister : Obligations.ImmediatesWriteOneRegister := by
  intro x kk s
  refine ⟨?ldImm, ?addImm⟩
  case ldImm => exact writes_reg_of_exec_eq_setReg (P := (· = kk)) (exec_ldImm x kk s) rfl
  case addImm =>
    exact writes_reg_of_exec_eq_setReg (P := fun b => b.toNat = ((s.reg x).toNat + kk.toNat) % 256)
      (exec_addImm x kk s) (BitVec.toNat_add (s.reg x) kk)

end Sys2Proof.Machine
end

section
/-! Family 8: the register-to-register operations (43_alu.md R130 to R138). -/

namespace Sys2Proof.Machine

/-! ## Byte arithmetic and the flag bytes, as numbers -/

theorem byte_sub_toNat (a b : Byte) : (a - b).toNat = (a.toNat + 256 - b.toNat) % 256 := by
  have := b.isLt
  rw [BitVec.toNat_sub]
  omega

theorem byte_shiftRight_one_toNat (b : Byte) : (b >>> 1).toNat = b.toNat / 2 := by
  rw [BitVec.toNat_ushiftRight, Nat.shiftRight_eq_div_pow]

theorem byte_shiftLeft_one_toNat (b : Byte) : (b <<< 1).toNat = 2 * b.toNat % 256 := by
  rw [BitVec.toNat_shiftLeft, Nat.shiftLeft_eq, Nat.mul_comm]

/-- The flag of `SHR` is bit 0, which a shift to the right drops. -/
theorem shrFlag_shiftRight_one (b : Byte) : shrFlag b >>> 1 = 0#8 := by
  refine BitVec.eq_of_toNat_eq ?_
  have hflag : (shrFlag b).toNat = b.toNat % 2 := (BitVec.toNat_and ..).trans (Nat.and_one_is_mod _)
  have hzero : (0#8).toNat = 0 := rfl
  rw [byte_shiftRight_one_toNat, hflag]
  omega

theorem subnFlag_toNat (vx vy : Byte) : (subnFlag vx vy).toNat = if vy.toNat > vx.toNat then 1 else 0 :=
  apply_ite BitVec.toNat _ _ _

theorem subnFlag_self (b : Byte) : subnFlag b b = 0#8 := if_neg (lt_irrefl _)

/-- The flag of `SHL` is bit 7 in its place, and bit 7 is set from 128 on. -/
theorem shlFlag_eq (b : Byte) : shlFlag b = if 128 ≤ b.toNat then 0x80#8 else 0x00#8 := by
  have hbit : b.getLsbD 7 = decide (128 ≤ b.toNat) := b.msb_eq_getLsbD_last.symm.trans b.msb_eq_decide
  calc shlFlag b
    _ = if b.getLsbD 7 then 0x80#8 else 0x00#8 := BitVec.and_twoPow b 7
    _ = if 128 ≤ b.toNat then 0x80#8 else 0x00#8 := by simp only [hbit, decide_eq_true_eq]

theorem shlFlag_shiftLeft_one (b : Byte) : shlFlag b <<< 1 = 0x00#8 := by
  rw [shlFlag_eq]
  split <;> decide

/-! ## A write of `VF`, then of one register -/

/-- An instruction that writes `f` to `VF` and then `b` to `V[x]`: `V[x]` holds `b`, and `VF` holds `f` where the second
write did not go over it. -/
theorem writes_flag_then_reg_of_exec_eq {i : Instr} {s : State} {x : Reg} {f b : Byte}
    (hexec : exec i s = .next ((s.setReg 15 f).setReg x b)) :
    ∃ t, exec i s = .next t ∧ RegsOnly (fun z => z = x ∨ z = 15) s t ∧ t.reg x = b ∧ (x ≠ 15 → t.reg 15 = f) := by
  refine ⟨_, hexec, ⟨fun z hz => ?others, fun _ => rfl, rfl⟩, State.reg_setReg_same _ x b, fun hx => ?flag⟩
  case others =>
    obtain ⟨hzx, hzf⟩ := not_or.mp hz
    rw [State.reg_setReg_of_ne _ b hzx, State.reg_setReg_of_ne s f hzf]
  case flag => rw [State.reg_setReg_of_ne _ b hx.symm, State.reg_setReg_same]

/-! ## The nine instructions -/

theorem exec_ldReg (x y : Reg) (s : State) : exec (.ldReg x y) s = .next (s.setReg x (s.reg y)) := rfl

theorem exec_orReg (x y : Reg) (s : State) : exec (.orReg x y) s = .next (s.setReg x (s.reg x ||| s.reg y)) := rfl

theorem exec_andReg (x y : Reg) (s : State) : exec (.andReg x y) s = .next (s.setReg x (s.reg x &&& s.reg y)) := rfl

theorem exec_xorReg (x y : Reg) (s : State) : exec (.xorReg x y) s = .next (s.setReg x (s.reg x ^^^ s.reg y)) := rfl

theorem exec_addReg (x y : Reg) (s : State) : exec (.addReg x y) s = .next (s.setReg x (s.reg x + s.reg y)) := rfl

theorem exec_subReg (x y : Reg) (s : State) : exec (.subReg x y) s = .next (s.setReg x (s.reg x - s.reg y)) := rfl

theorem exec_shr (x y : Reg) (s : State) :
    exec (.shr x y) s = .next ((s.setReg 15 (shrFlag (s.reg y))).setReg x
      ((s.setReg 15 (shrFlag (s.reg y))).reg y >>> 1)) := rfl

theorem exec_subn (x y : Reg) (s : State) :
    exec (.subn x y) s = .next ((s.setReg 15 (subnFlag (s.reg x) (s.reg y))).setReg x
      ((s.setReg 15 (subnFlag (s.reg x) (s.reg y))).reg y - (s.setReg 15 (subnFlag (s.reg x) (s.reg y))).reg x)) := rfl

theorem exec_shl (x y : Reg) (s : State) :
    exec (.shl x y) s = .next ((s.setReg 15 (shlFlag (s.reg x))).setReg x
      ((s.setReg 15 (shlFlag (s.reg x))).reg x <<< 1)) := rfl

/-! ## The obligations -/

/-- Settles O38: each instruction is the write of one register, sum and difference taken modulo 256. -/
theorem aluWritesOneRegister : Obligations.AluWritesOneRegister := by
  intro x y s
  refine ⟨?ldReg, ?orReg, ?andReg, ?xorReg, ?addReg, ?subReg⟩
  case ldReg => exact writes_reg_of_exec_eq_setReg (P := (· = s.reg y)) (exec_ldReg x y s) rfl
  case orReg => exact writes_reg_of_exec_eq_setReg (P := (· = s.reg x ||| s.reg y)) (exec_orReg x y s) rfl
  case andReg => exact writes_reg_of_exec_eq_setReg (P := (· = s.reg x &&& s.reg y)) (exec_andReg x y s) rfl
  case xorReg => exact writes_reg_of_exec_eq_setReg (P := (· = s.reg x ^^^ s.reg y)) (exec_xorReg x y s) rfl
  case addReg =>
    exact writes_reg_of_exec_eq_setReg (P := fun b => b.toNat = ((s.reg x).toNat + (s.reg y).toNat) % 256)
      (exec_addReg x y s) (BitVec.toNat_add (s.reg x) (s.reg y))
  case subReg =>
    exact writes_reg_of_exec_eq_setReg (P := fun b => b.toNat = ((s.reg x).toNat + 256 - (s.reg y).toNat) % 256)
      (exec_subReg x y s) (byte_sub_toNat (s.reg x) (s.reg y))

/-- Settles O39: the second step reads `V[y]` as it was, or, where `y` is `VF`, the flag, whose half is 0. -/
theorem shrByItsTable : Obligations.ShrByItsTable := by
  intro x y s
  obtain ⟨t, hexec, honly, hx, hflag⟩ := writes_flag_then_reg_of_exec_eq (exec_shr x y s)
  have hold : y ≠ 15 → (t.reg x).toNat = (s.reg y).toNat / 2 := fun hy => by
    rw [hx, State.reg_setReg_of_ne s _ hy, byte_shiftRight_one_toNat]
  have hnew : y = 15 → t.reg x = 0#8 := fun hy => by
    rw [hx, hy, State.reg_setReg_same, shrFlag_shiftRight_one]
  refine ⟨t, hexec, honly, ?neither, ?xIsVF, ?yIsVF, ?bothAreVF⟩
  case neither => exact fun hxf hy => ⟨hflag hxf, hold hy⟩
  case xIsVF => exact fun hxf hy => hxf ▸ hold hy
  case yIsVF => exact fun hxf hy => ⟨(hflag hxf).trans (hy ▸ rfl), hnew hy⟩
  case bothAreVF => exact fun hxf hy => hxf ▸ hnew hy

/-- Settles O40: the second step subtracts, modulo 256, the operands as they are after the first, which wrote the flag
over the one that is `VF`. -/
theorem subnByItsTable : Obligations.SubnByItsTable := by
  intro x y s
  obtain ⟨t, hexec, honly, hx, hflag⟩ := writes_flag_then_reg_of_exec_eq (exec_subn x y s)
  refine ⟨t, hexec, honly, ?neither, ?equal, ?xIsVF, ?yIsVF, ?bothAreVF⟩
  case neither =>
    intro hxf hy
    rw [hflag hxf, hx, State.reg_setReg_of_ne s _ hxf, State.reg_setReg_of_ne s _ hy]
    exact ⟨subnFlag_toNat _ _, byte_sub_toNat _ _⟩
  case equal =>
    rintro rfl hxf
    exact ⟨(hflag hxf).trans (subnFlag_self _), hx.trans (BitVec.sub_self _)⟩
  case xIsVF =>
    rintro rfl hy
    rw [hx, State.reg_setReg_same, State.reg_setReg_of_ne s _ hy, byte_sub_toNat, subnFlag_toNat]
  case yIsVF =>
    rintro hxf rfl
    rw [hflag hxf, hx, State.reg_setReg_same, State.reg_setReg_of_ne s _ hxf, byte_sub_toNat, subnFlag_toNat]
    exact ⟨rfl, rfl⟩
  case bothAreVF =>
    rintro rfl rfl
    exact hx.trans (BitVec.sub_self _)

/-- Settles O41: the flag is bit 7 in its place, and where `x` is `VF` it is the flag that is doubled, to 0. -/
theorem shlFlagIsTheMaskedBit : Obligations.ShlFlagIsTheMaskedBit := by
  intro x y s
  obtain ⟨t, hexec, honly, hx, hflag⟩ := writes_flag_then_reg_of_exec_eq (exec_shl x y s)
  refine ⟨t, hexec, honly, ?anyY, ?xIsNotVF, ?xIsVF⟩
  case anyY => exact fun y' => (exec_shl x y' s).trans ((exec_shl x y s).symm.trans hexec)
  case xIsNotVF =>
    intro hxf
    refine ⟨(hflag hxf).trans (shlFlag_eq _), ?_⟩
    rw [hx, State.reg_setReg_of_ne s _ hxf, byte_shiftLeft_one_toNat]
  case xIsVF =>
    rintro rfl
    rw [hx, State.reg_setReg_same, shlFlag_shiftLeft_one]

end Sys2Proof.Machine
end

section
/-! Families A, B: load `I`, indexed jump (44_index_jump_random.md R141, R142). -/

namespace Sys2Proof.Machine

/-- The largest sum, `0x0FFF + 0xFF`, is a word, so nothing is reduced. -/
theorem zextAddr_add_zextByte_toNat (addr : Addr) (b : Byte) :
    (zextAddr addr + zextByte b).toNat = addr.toNat + b.toNat := by
  have haddr := addr.isLt
  have hb := b.isLt
  rw [BitVec.toNat_add, zextAddr_toNat, zextByte_toNat]
  omega

/-! ## The two instructions -/

theorem exec_ldI (addr : Addr) (s : State) : exec (.ldI addr) s = .next { s with i := zextAddr addr } := rfl

theorem exec_jpV0 (addr : Addr) (s : State) :
    exec (.jpV0 addr) s = .next (s.jump (zextAddr addr + zextByte (s.reg 0))) := rfl

/-! ## The obligation -/

/-- Settles O42: the load is the write of `I` alone, and the indexed jump is a jump to a sum that fits a word. -/
theorem indexLoadAndIndexedJump : Obligations.IndexLoadAndIndexedJump := by
  intro addr s
  refine ⟨?ldI, ?jpV0⟩
  case ldI => exact ⟨_, exec_ldI addr s, zextAddr_toNat addr, rfl, fun _ => rfl⟩
  case jpV0 => exact ⟨_, exec_jpV0 addr s, zextAddr_add_zextByte_toNat addr (s.reg 0), .jump s _⟩

end Sys2Proof.Machine
end

section
/-! Family E: the skips on the key buffer (46_key_skips.md R160, R161). -/

namespace Sys2Proof.Machine

/-! ## The comparison of the key code with a register -/

theorem State.keyIs_eq_true_iff (s : State) (x : Reg) : s.keyIs x = true ↔ s.key = (s.reg x).toNat := beq_iff_eq

theorem State.keyIs_eq_false_iff (s : State) (x : Reg) : s.keyIs x = false ↔ s.key ≠ (s.reg x).toNat :=
  beq_eq_false_iff_ne

/-! ## The two instructions -/

theorem exec_skp (x : Reg) (s : State) : exec (.skp x) s = .next (s.skipIf (s.keyIs x)) := rfl

theorem exec_sknp (x : Reg) (s : State) : exec (.sknp x) s = .next (s.skipIf (!s.keyIs x)) := rfl

/-! ## The obligation -/

/-- Settles O36: both instructions are skips on the one comparison, which `SKNP` negates. -/
theorem keySkipsAreComplementary : Obligations.KeySkipsAreComplementary := by
  intro x s
  have heq := (s.keyIs_eq_true_iff x).mpr
  have hne := (s.keyIs_eq_false_iff x).mpr
  refine ⟨?skp, ?sknp⟩
  case skp => exact addsTwo_or_stays_of_exec_eq_skipIf (exec_skp x s) heq hne
  case sknp =>
    exact addsTwo_or_stays_of_exec_eq_skipIf (exec_sknp x s)
      (fun h => by rw [hne h, Bool.not_false]) (fun h => by rw [heq h, Bool.not_true])

end Sys2Proof.Machine
end

section
/-! Family F, first part: timers, key read, index arithmetic (47_timer_key_index.md R170 to R175). -/

namespace Sys2Proof.Machine

/-! ## The index values, as numbers -/

theorem word_add_zextByte_toNat (w : Word) (b : Byte) : (w + zextByte b).toNat = (w.toNat + b.toNat) % 65536 := by
  rw [BitVec.toNat_add, zextByte_toNat]

/-- The largest product, `5 * 0xFF`, is a word, so nothing is reduced. -/
theorem zextByte_mul_fontStride_toNat (b : Byte) :
    (zextByte b * BitVec.ofNat 16 Config.fontStride).toNat = 5 * b.toNat := by
  have hb := b.isLt
  have hstride : (BitVec.ofNat 16 Config.fontStride).toNat = 5 := rfl
  rw [BitVec.toNat_mul, zextByte_toNat, hstride]
  omega

/-! ## The six instructions -/

theorem exec_ldVxDT (x : Reg) (s : State) : exec (.ldVxDT x) s = .next (s.setReg x s.dt) := rfl

theorem exec_ldVxK (x : Reg) (s : State) : exec (.ldVxK x) s = .next (s.setReg x (BitVec.ofNat 8 s.key)) := rfl

theorem exec_ldDT (x : Reg) (s : State) : exec (.ldDT x) s = .next { s with dt := s.reg x } := rfl

theorem exec_ldST (x : Reg) (s : State) : exec (.ldST x) s = .next { s with st := s.reg x } := rfl

theorem exec_addI (x : Reg) (s : State) : exec (.addI x) s = .next { s with i := s.i + zextByte (s.reg x) } := rfl

theorem exec_ldF (x : Reg) (s : State) :
    exec (.ldF x) s = .next { s with i := zextByte (s.reg x) * BitVec.ofNat 16 Config.fontStride } := rfl

/-! ## The obligations -/

/-- Settles O47: one instruction is the write of a register, the others are the write of one timer, memory kept. -/
theorem timerInstructionsMoveAByte : Obligations.TimerInstructionsMoveAByte := by
  intro x s
  refine ⟨?ldVxDT, ?ldDT, ?ldST⟩
  case ldVxDT => exact writes_reg_of_exec_eq_setReg (P := (· = s.dt)) (exec_ldVxDT x s) rfl
  case ldDT => exact ⟨_, exec_ldDT x s, rfl, fun _ => rfl⟩
  case ldST => exact ⟨_, exec_ldST x s, rfl, fun _ => rfl⟩

/-- Settles O48: the instruction is the write of one register, whatever the key buffer holds, and a byte made of the
key code is the code modulo 256. -/
theorem keyReadNeverWaits : Obligations.KeyReadNeverWaits := fun x s =>
  writes_reg_of_exec_eq_setReg (P := fun b => b.toNat = s.key % 256) (exec_ldVxK x s) (BitVec.toNat_ofNat s.key 8)

/-- Settles O49: each instruction is the write of `I` alone; the sum wraps at 65536 and the product fits a word. -/
theorem indexArithmetic : Obligations.IndexArithmetic := by
  intro x s
  refine ⟨?addI, ?ldF⟩
  case addI => exact ⟨_, exec_addI x s, word_add_zextByte_toNat s.i (s.reg x), rfl, fun _ => rfl⟩
  case ldF => exact ⟨_, exec_ldF x s, zextByte_mul_fontStride_toNat (s.reg x), rfl, fun _ => rfl⟩

end Sys2Proof.Machine
end

section
/-! Family F, second part: BCD store, register store, register load (48_memory_transfer.md R180 to R182). -/

namespace Sys2Proof.Machine

/-! ## The range check before a transfer -/

/-- An instruction that checks its range first does its work when the range is inside memory. -/
theorem exec_eq_next_of_range_inside {i : Instr} {s t : State} {last : Nat} {r : Result}
    (hexec : exec i s = if s.dataOk last then .next t else r) (h : s.i.toNat + last ≤ 0xFFF) : exec i s = .next t :=
  hexec.trans (if_pos ((s.dataOk_iff last).mpr h))

/-- An instruction that checks its range first faults on a running core when the range goes past memory. -/
theorem exec_eq_faulted_of_range_past {i : Instr} {s : State} {last : Nat} {c : FaultCause} {r : Result}
    (hexec : exec i s = if s.dataOk last then r else .next (s.raiseIn c i)) (hrun : s.halted = false)
    (h : 0xFFF < s.i.toNat + last) : exec i s = .next (s.faulted c i) := by
  have hpast : ¬ s.dataOk last = true := mt (s.dataOk_iff last).mp (Nat.not_le.mpr h)
  rw [hexec, if_neg hpast, s.raiseIn_eq_faulted c i hrun]

/-! ## A run of bytes stored through `I`, and a run of registers written -/

theorem BytesOnly.writeRun (s : State) (a : Nat) (vs : List Byte) (h : a + vs.length ≤ Config.memSize) :
    BytesOnly a vs.length s { s with mem := s.mem.writeRun a vs } :=
  ⟨fun b hb => Memory.read_writeRun_outside vs s.mem a b h hb, rfl⟩

/-- Byte `k` of a run stored from `I` on is read at `I + k`. -/
theorem State.read_writeRun_dataAddr (s : State) (vs : List Byte) (k : Nat)
    (h : s.dataAddr 0 + vs.length ≤ Config.memSize) (hk : k < vs.length) :
    (s.mem.writeRun (s.dataAddr 0) vs).read (s.dataAddr k) = vs[k] :=
  Memory.read_writeRun_inside vs s.mem (s.dataAddr 0) k h hk

theorem RegsOnly.setRegs (s : State) (ks : List Reg) (f : Reg → Byte) : RegsOnly (· ∈ ks) s (s.setRegs ks f) where
  others z hz := by rw [State.reg_setRegs, if_neg hz]
  bytes a := by rw [State.setRegs_eq]
  rest := State.setRegs_eq ks f s

theorem regsTo_map_length (x : Reg) (f : Reg → Byte) : ((regsTo x).map f).length = x.val + 1 := by
  rw [List.length_map, regsTo_length]

/-- Element `k` of the run is register `k`. -/
theorem regsTo_map_getElem (x k : Reg) (f : Reg → Byte) (hk : k ≤ x) (h : k.val < ((regsTo x).map f).length) :
    ((regsTo x).map f)[k.val] = f k := by
  obtain ⟨_, hget⟩ := List.getElem?_eq_some_iff.mp (regsTo_getElem? x k hk)
  rw [List.getElem_map, hget]

/-! ## The decimal digits of a byte -/

/-- Every digit fits a byte, so each element of the run has its digit's number. -/
theorem digits_getElem_toNat (b : Byte) (k : Nat) (hk : k < 3) :
    ((digits b)[k]'hk).toNat = [b.toNat / 100, b.toNat / 10 % 10, b.toNat % 10][k]'hk := by
  have hb := b.isLt
  match k with
  | 0 | 1 | 2 => exact Nat.mod_eq_of_lt (by omega)

/-! ## The three instructions -/

theorem exec_ldB (x : Reg) (s : State) :
    exec (.ldB x) s = if s.dataOk 2 then .next { s with mem := s.mem.writeRun (s.dataAddr 0) (digits (s.reg x)) }
      else .next (s.raiseIn (.memoryFault .write (s.dataAddr 2)) (.ldB x)) := rfl

theorem exec_storeRegs (x : Reg) (s : State) :
    exec (.storeRegs x) s =
      if s.dataOk x.val then .next { s with mem := s.mem.writeRun (s.dataAddr 0) ((regsTo x).map s.reg) }
      else .next (s.raiseIn (.memoryFault .write (s.dataAddr x.val)) (.storeRegs x)) := rfl

theorem exec_loadRegs (x : Reg) (s : State) :
    exec (.loadRegs x) s =
      if s.dataOk x.val then .next (s.setRegs (regsTo x) (fun k => s.mem.read (s.dataAddr k.val)))
      else .next (s.raiseIn (.memoryFault .read (s.dataAddr x.val)) (.loadRegs x)) := rfl

/-! ## The obligations -/

/-- Settles O50: inside memory the three digits are one run of bytes stored from `I` on. -/
theorem bcdStoresTheDigits : Obligations.BcdStoresTheDigits := by
  refine fun x s => ⟨fun h => ?_, exec_eq_faulted_of_range_past (exec_ldB x s)⟩
  have hrange : s.dataAddr 0 + (digits (s.reg x)).length ≤ Config.memSize := Nat.succ_le_succ h
  have hdigit (k : Nat) (hk : k < 3) :=
    (congrArg BitVec.toNat (s.read_writeRun_dataAddr _ k hrange hk)).trans (digits_getElem_toNat (s.reg x) k hk)
  exact ⟨_, exec_eq_next_of_range_inside (exec_ldB x s) h, .writeRun s _ _ hrange,
    hdigit 0 (by decide), hdigit 1 (by decide), hdigit 2 (by decide)⟩

/-- Settles O51: inside memory the registers are one run of bytes stored from `I` on, register `k` as byte `k`. -/
theorem storeWritesTheRegisterRun : Obligations.StoreWritesTheRegisterRun := by
  refine fun x s => ⟨fun h => ?_, exec_eq_faulted_of_range_past (exec_storeRegs x s)⟩
  have hlen := regsTo_map_length x s.reg
  have hrange : s.dataAddr 0 + ((regsTo x).map s.reg).length ≤ Config.memSize := hlen ▸ Nat.succ_le_succ h
  refine ⟨_, exec_eq_next_of_range_inside (exec_storeRegs x s) h, hlen ▸ .writeRun s _ _ hrange, fun k hk => ?_⟩
  have hklen : k.val < ((regsTo x).map s.reg).length := hlen ▸ Nat.lt_succ_of_le hk
  rw [s.read_writeRun_dataAddr _ k.val hrange hklen, regsTo_map_getElem x k s.reg hk]

/-- Settles O52: inside memory the load is a run of register writes, which are those of index at most `x`. -/
theorem loadReadsTheRegisterRun : Obligations.LoadReadsTheRegisterRun := by
  refine fun x s => ⟨fun h => ?_, exec_eq_faulted_of_range_past (exec_loadRegs x s)⟩
  refine ⟨_, exec_eq_next_of_range_inside (exec_loadRegs x s) h, ?frame, fun k hk => ?reg⟩
  case frame => simpa only [mem_regsTo] using RegsOnly.setRegs s (regsTo x) _
  case reg => rw [State.reg_setRegs, if_pos ((mem_regsTo x k).mpr hk)]

end Sys2Proof.Machine
end

section
/-! The decoder and the encoder against each other: every row of the opcode table, both ways round, and the words that
are no instruction (30_encoding.md R70 to R79). -/

namespace Sys2Proof

/-! ## The decoder is the dispatch -/

theorem decodeWord_eq_ok_iff (w : Word) (i : Instr) : decodeWord w = .ok i ↔ dispatch (fieldsOf w) = some i := by
  unfold decodeWord
  cases dispatch (fieldsOf w) <;> simp

theorem decodeWord_eq_error_iff (w : Word) (r : Reject) :
    decodeWord w = .error r ↔ dispatch (fieldsOf w) = none ∧ r = .illegal (fieldsOf w).op (fieldsOf w).addr := by
  unfold decodeWord
  cases dispatch (fieldsOf w) <;> simp [eq_comm]

/-! ## A word in one of the three formats decodes as its own fields say -/

theorem decodeWord_encodeAddr {op : Nibble} {addr : Addr} {i : Instr}
    (h : ∀ x y n kk, dispatch ⟨op, x, y, n, kk, addr⟩ = some i) : decodeWord (encodeAddr op addr) = .ok i := by
  obtain ⟨hop, haddr⟩ := fieldsOf_encodeAddr op addr
  refine (decodeWord_eq_ok_iff _ _).mpr ?_
  rw [← h (fieldsOf (encodeAddr op addr)).x (fieldsOf (encodeAddr op addr)).y (fieldsOf (encodeAddr op addr)).n
    (fieldsOf (encodeAddr op addr)).kk]
  exact congrArg dispatch (by rw [Fields.mk.injEq]; exact ⟨hop, rfl, rfl, rfl, rfl, haddr⟩)

theorem decodeWord_encodeImm {op : Nibble} {x : Reg} {kk : Byte} {i : Instr}
    (h : ∀ y n addr, dispatch ⟨op, x, y, n, kk, addr⟩ = some i) : decodeWord (encodeImm op x kk) = .ok i := by
  obtain ⟨hop, hx, hkk⟩ := fieldsOf_encodeImm op x kk
  refine (decodeWord_eq_ok_iff _ _).mpr ?_
  rw [← h (fieldsOf (encodeImm op x kk)).y (fieldsOf (encodeImm op x kk)).n (fieldsOf (encodeImm op x kk)).addr]
  exact congrArg dispatch (by rw [Fields.mk.injEq]; exact ⟨hop, hx, rfl, rfl, hkk, rfl⟩)

theorem decodeWord_encodeRegs {op : Nibble} {x y : Reg} {n : Nibble} {i : Instr}
    (h : ∀ kk addr, dispatch ⟨op, x, y, n, kk, addr⟩ = some i) : decodeWord (encodeRegs op x y n) = .ok i := by
  obtain ⟨hop, hx, hy, hn⟩ := fieldsOf_encodeRegs op x y n
  refine (decodeWord_eq_ok_iff _ _).mpr ?_
  rw [← h (fieldsOf (encodeRegs op x y n)).kk (fieldsOf (encodeRegs op x y n)).addr]
  exact congrArg dispatch (by rw [Fields.mk.injEq]; exact ⟨hop, hx, hy, hn, rfl, rfl⟩)

/-- Row 3 of the table: `SYS` but for the operands of `CLS` and `RET` (30_encoding.md R75). -/
theorem decodeSystem_of_wellFormed (f : Fields) (h : (Instr.sys f.addr).WellFormed) : decodeSystem f = .sys f.addr := by
  obtain ⟨hcls, hret⟩ := Bool.and_eq_true_iff.mp h
  rw [decodeSystem, if_neg (bne_iff_ne.mp hcls), if_neg (bne_iff_ne.mp hret)]

/-! ## Every row of the table -/

theorem decodeWord_encode (i : Instr) (h : i.WellFormed) : decodeWord (encode i) = .ok i := by
  cases i with
  | cls | ret => decide
  | sys addr =>
    exact decodeWord_encodeAddr fun x y n kk => congrArg some (decodeSystem_of_wellFormed ⟨0x0#4, x, y, n, kk, addr⟩ h)
  | jp | call | ldI | jpV0 => exact decodeWord_encodeAddr fun _ _ _ _ => rfl
  | seImm | sneImm | ldImm | addImm | rnd => exact decodeWord_encodeImm fun _ _ _ => rfl
  | skp | sknp => exact decodeWord_encodeImm fun _ _ _ => rfl
  | ldVxDT | ldVxK | ldDT | ldST | addI | ldF | ldB | storeRegs | loadRegs =>
    exact decodeWord_encodeImm fun _ _ _ => rfl
  | seReg | sneReg | drw => exact decodeWord_encodeRegs fun _ _ => rfl
  | ldReg | orReg | andReg | xorReg | addReg | subReg | shr | subn | shl => exact decodeWord_encodeRegs fun _ _ => rfl

theorem decodeBytes_encodeBytes_append (i : Instr) (h : i.WellFormed) (rest : List Byte) :
    decodeBytes (encodeBytes i ++ rest) = .ok (i, rest) := by
  change decodeBytes (highByte (encode i) :: lowByte (encode i) :: rest) = _
  rw [decodeBytes_cons, Machine.wordOfBytes_high_low, decodeWord_encode i h]

theorem decodeTableWord_encode (i : Instr) (h : i.WellFormed) : decodeTableWord 16 (encode i).toNat = some i := by
  have hword : BitVec.ofNat 16 ((encode i).toNat % 2 ^ 16) = encode i := by
    rw [Nat.mod_eq_of_lt (encode i).isLt, BitVec.ofNat_toNat, BitVec.setWidth_eq]
  have hbytes : decodeBytes [highByte (encode i), lowByte (encode i)] = .ok (i, []) :=
    decodeBytes_encodeBytes_append i h []
  simp only [decodeTableWord, hword, hbytes]

/-- Settles O1: the word of each format gives back the fields it was made of, and the row is read off those. -/
theorem decodeOfEncodeIsTheInstruction : Obligations.DecodeOfEncodeIsTheInstruction :=
  fun i h => ⟨decodeWord_encode i h, decodeBytes_encodeBytes_append i h, decodeTableWord_encode i h⟩

/-! ## A word is the word of its own fields, in each format -/

theorem encodeAddr_fieldsOf (w : Word) : encodeAddr (fieldsOf w).op (fieldsOf w).addr = w := by
  refine BitVec.eq_of_toNat_eq ?_
  rw [encodeAddr_toNat, fieldsOf_op, fieldsOf_addr]
  omega

theorem encodeImm_fieldsOf (w : Word) : encodeImm (fieldsOf w).op (fieldsOf w).x (fieldsOf w).kk = w := by
  refine BitVec.eq_of_toNat_eq ?_
  rw [encodeImm_toNat, fieldsOf_op, fieldsOf_x, fieldsOf_kk]
  omega

theorem encodeRegs_fieldsOf (w : Word) :
    encodeRegs (fieldsOf w).op (fieldsOf w).x (fieldsOf w).y (fieldsOf w).n = w := by
  refine BitVec.eq_of_toNat_eq ?_
  rw [encodeRegs_toNat, fieldsOf_op, fieldsOf_x, fieldsOf_y, fieldsOf_n]
  omega

/-! ## What each family decodes to is well-formed and has the word it came from -/

/-- `i` is a well-formed instruction whose word is `w`. -/
def Spells (i : Instr) (w : Word) : Prop := encode i = w ∧ i.WellFormed

theorem spells_of_addr {w : Word} {op : Nibble} {i : Instr} (hi : encode i = encodeAddr op (fieldsOf w).addr)
    (hwf : i.WellFormed) (hop : (fieldsOf w).op.toNat = op.toNat) : Spells i w :=
  ⟨by rw [hi, ← BitVec.eq_of_toNat_eq hop, encodeAddr_fieldsOf], hwf⟩

theorem spells_of_imm {w : Word} {op : Nibble} {kk : Byte} {i : Instr} (hi : encode i = encodeImm op (fieldsOf w).x kk)
    (hwf : i.WellFormed) (hop : (fieldsOf w).op.toNat = op.toNat) (hkk : (fieldsOf w).kk.toNat = kk.toNat) :
    Spells i w :=
  ⟨by rw [hi, ← BitVec.eq_of_toNat_eq hop, ← BitVec.eq_of_toNat_eq hkk, encodeImm_fieldsOf], hwf⟩

theorem spells_of_regs {w : Word} {op n : Nibble} {i : Instr}
    (hi : encode i = encodeRegs op (fieldsOf w).x (fieldsOf w).y n) (hwf : i.WellFormed)
    (hop : (fieldsOf w).op.toNat = op.toNat) (hn : (fieldsOf w).n.toNat = n.toNat) : Spells i w :=
  ⟨by rw [hi, ← BitVec.eq_of_toNat_eq hop, ← BitVec.eq_of_toNat_eq hn, encodeRegs_fieldsOf], hwf⟩

theorem decodeSystem_spells (w : Word) (hop : (fieldsOf w).op.toNat = 0) : Spells (decodeSystem (fieldsOf w)) w := by
  unfold decodeSystem
  split
  case isTrue hcls => exact spells_of_addr (op := 0x0#4) (by rw [hcls]; rfl) rfl hop
  case isFalse hcls =>
    split
    case isTrue hret => exact spells_of_addr (op := 0x0#4) (by rw [hret]; rfl) rfl hop
    case isFalse hret =>
      exact spells_of_addr (op := 0x0#4) rfl (Bool.and_eq_true_iff.mpr ⟨bne_iff_ne.mpr hcls, bne_iff_ne.mpr hret⟩) hop

theorem decodeAlu_spells {w : Word} {i : Instr} (hop : (fieldsOf w).op.toNat = 0x8)
    (h : decodeAlu (fieldsOf w) = some i) : Spells i w := by
  unfold decodeAlu at h
  split at h
  case h_10 => cases h
  all_goals
    obtain rfl := Option.some.inj h
    exact spells_of_regs rfl rfl hop ‹_›

theorem decodeKey_spells {w : Word} {i : Instr} (hop : (fieldsOf w).op.toNat = 0xE)
    (h : decodeKey (fieldsOf w) = some i) : Spells i w := by
  unfold decodeKey at h
  split at h
  case h_3 => cases h
  all_goals
    obtain rfl := Option.some.inj h
    exact spells_of_imm rfl rfl hop ‹_›

theorem decodeMisc_spells {w : Word} {i : Instr} (hop : (fieldsOf w).op.toNat = 0xF)
    (h : decodeMisc (fieldsOf w) = some i) : Spells i w := by
  unfold decodeMisc at h
  split at h
  case h_10 => cases h
  all_goals
    obtain rfl := Option.some.inj h
    exact spells_of_imm rfl rfl hop ‹_›

/-- The last arm of the dispatch is family F. -/
theorem op_eq_fifteen (op : Nibble) (h : 14 < op.toNat) : op.toNat = 0xF := by
  have := op.isLt
  omega

theorem dispatch_spells {w : Word} {i : Instr} (h : dispatch (fieldsOf w) = some i) : Spells i w := by
  unfold dispatch at h
  split at h <;> rename_i hop
  case h_1 => exact Option.some.inj h ▸ decodeSystem_spells w hop
  case h_6 | h_10 =>
    obtain ⟨hn, hi⟩ := (Option.ite_none_right_eq_some ..).mp h
    obtain rfl := Option.some.inj hi
    exact spells_of_regs rfl rfl hop (congrArg BitVec.toNat hn)
  case h_9 => exact decodeAlu_spells hop h
  case h_14 =>
    obtain rfl := Option.some.inj h
    exact spells_of_regs rfl rfl hop rfl
  case h_15 => exact decodeKey_spells hop h
  case h_16 =>
    simp only [imp_false] at *
    exact decodeMisc_spells (op_eq_fifteen _ (by omega)) h
  case h_2 | h_3 | h_11 | h_12 =>
    obtain rfl := Option.some.inj h
    exact spells_of_addr rfl rfl hop
  case h_4 | h_5 | h_7 | h_8 | h_13 =>
    obtain rfl := Option.some.inj h
    exact spells_of_imm rfl rfl hop rfl

/-- Settles O2: the dispatch tests the fixed fields of the row it takes and keeps the other fields as operands, and a
word is made of its fields again. -/
theorem encodeOfDecodeIsTheWord : Obligations.EncodeOfDecodeIsTheWord :=
  fun w i h => dispatch_spells ((decodeWord_eq_ok_iff w i).mp h)

/-! ## The words that no row selects -/

theorem decodeAlu_eq_none_iff (f : Fields) :
    decodeAlu f = none ↔ f.n.toNat ∈ [0x8, 0x9, 0xA, 0xB, 0xC, 0xD, 0xF] := by
  have := f.n.isLt
  unfold decodeAlu
  split <;> simp_all
  omega

theorem decodeKey_eq_none_iff (f : Fields) : decodeKey f = none ↔ f.kk.toNat ∉ [0x9E, 0xA1] := by
  unfold decodeKey
  split <;> simp_all

theorem decodeMisc_eq_none_iff (f : Fields) :
    decodeMisc f = none ↔ f.kk.toNat ∉ [0x07, 0x0A, 0x15, 0x18, 0x1E, 0x29, 0x33, 0x55, 0x65] := by
  unfold decodeMisc
  split <;> simp_all

theorem dispatch_eq_none_iff (f : Fields) :
    dispatch f = none ↔
      (f.op.toNat = 5 ∧ f.n.toNat ≠ 0) ∨ (f.op.toNat = 8 ∧ decodeAlu f = none) ∨ (f.op.toNat = 9 ∧ f.n.toNat ≠ 0) ∨
      (f.op.toNat = 0xE ∧ decodeKey f = none) ∨ (f.op.toNat = 0xF ∧ decodeMisc f = none) := by
  have hn : f.n = 0#4 ↔ f.n.toNat = 0 := BitVec.toNat_inj.symm
  unfold dispatch
  split <;> rename_i hop
  case h_16 =>
    simp only [imp_false] at *
    simp [op_eq_fifteen f.op (by omega)]
  all_goals simp [hop, hn]

/-- Settles O3: the dispatch has an arm without an instruction in families 5, 8, 9, E and F only, selected by the fields
the table of R77 names. -/
theorem illegalWordsAreExactlyThoseListed : Obligations.IllegalWordsAreExactlyThoseListed := by
  intro w
  refine ⟨?rejected, fun r h => ?record⟩
  case rejected =>
    have hreject : (∃ r, decodeWord w = .error r) ↔ dispatch (fieldsOf w) = none := by
      simp only [decodeWord_eq_error_iff, exists_and_left, exists_eq, and_true]
    rw [hreject, dispatch_eq_none_iff, decodeAlu_eq_none_iff, decodeKey_eq_none_iff, decodeMisc_eq_none_iff,
      fieldsOf_op, fieldsOf_n, fieldsOf_kk]
  case record =>
    obtain ⟨-, rfl⟩ := (decodeWord_eq_error_iff w r).mp h
    rw [← fieldsOf_op, ← fieldsOf_addr, BitVec.ofNat_toNat, BitVec.ofNat_toNat, BitVec.setWidth_eq,
      BitVec.setWidth_eq]

/-! ## The table, row by row and by its words -/

/-- Settles O5: the word written for a row is the word of the row's instruction, which is well-formed but for the two
operands of `SYS` that the statement leaves out. -/
theorem everyRowOfTheTableDecodes : Obligations.EveryRowOfTheTableDecodes := by
  intro x y n kk addr
  have hsys : addr ≠ 0x0E0#12 → addr ≠ 0x0EE#12 → decodeWord (encode (.sys addr)) = .ok (.sys addr) := fun hcls hret =>
    decodeWord_encode _ (Bool.and_eq_true_iff.mpr ⟨bne_iff_ne.mpr hcls, bne_iff_ne.mpr hret⟩)
  exact ⟨decodeWord_encode .cls rfl, decodeWord_encode .ret rfl, hsys,
    decodeWord_encode (.jp addr) rfl, decodeWord_encode (.call addr) rfl,
    decodeWord_encode (.seImm x kk) rfl, decodeWord_encode (.sneImm x kk) rfl, decodeWord_encode (.seReg x y) rfl,
    decodeWord_encode (.ldImm x kk) rfl, decodeWord_encode (.addImm x kk) rfl,
    decodeWord_encode (.ldReg x y) rfl, decodeWord_encode (.orReg x y) rfl, decodeWord_encode (.andReg x y) rfl,
    decodeWord_encode (.xorReg x y) rfl, decodeWord_encode (.addReg x y) rfl, decodeWord_encode (.subReg x y) rfl,
    decodeWord_encode (.shr x y) rfl, decodeWord_encode (.subn x y) rfl, decodeWord_encode (.shl x y) rfl,
    decodeWord_encode (.sneReg x y) rfl, decodeWord_encode (.ldI addr) rfl, decodeWord_encode (.jpV0 addr) rfl,
    decodeWord_encode (.rnd x kk) rfl, decodeWord_encode (.drw x y n) rfl,
    decodeWord_encode (.skp x) rfl, decodeWord_encode (.sknp x) rfl,
    decodeWord_encode (.ldVxDT x) rfl, decodeWord_encode (.ldVxK x) rfl, decodeWord_encode (.ldDT x) rfl,
    decodeWord_encode (.ldST x) rfl, decodeWord_encode (.addI x) rfl, decodeWord_encode (.ldF x) rfl,
    decodeWord_encode (.ldB x) rfl, decodeWord_encode (.storeRegs x) rfl, decodeWord_encode (.loadRegs x) rfl⟩

/-- Settles O6: each word is the word of the instruction beside it, and `FFFF` has the unlisted `kk` of family F. -/
theorem wordsOfTheTableDecode : Obligations.WordsOfTheTableDecode := by
  unfold Obligations.WordsOfTheTableDecode
  decide

end Sys2Proof
end

section
/-! Family D: the points of a sprite (45_draw.md R150 to R154). -/

namespace Sys2Proof.Machine

/-! ## The points of a sprite -/

theorem mem_spritePoints (m : Memory) (base n vx vy : Nat) (e : DisplayEvent) :
    e ∈ spritePoints m base n vx vy ↔
      ∃ r c, r < n ∧ c < 8 ∧ (m.read (base + r)).getLsbD (7 - c) = true ∧ e = .point (vx + c) (vy + r) := by
  simp only [spritePoints, List.mem_flatMap, List.mem_range, mem_rowPoints]
  constructor
  · rintro ⟨r, hr, c, hc, hbit, he⟩
    exact ⟨r, c, hr, hc, hbit, he⟩
  · rintro ⟨r, c, hr, hc, hbit, he⟩
    exact ⟨r, hr, c, hc, hbit, he⟩

theorem pairwise_before_rowPoints (vx py : Nat) (row : Byte) : (rowPoints vx py row).Pairwise DisplayEvent.before := by
  refine List.Pairwise.filterMap _ (R := (· < ·)) ?_ List.pairwise_lt_range
  intro a b hab p hp q hq
  obtain rfl := Option.some.inj (Option.ite_none_right_eq_some.mp hp).2
  obtain rfl := Option.some.inj (Option.ite_none_right_eq_some.mp hq).2
  exact .inr ⟨rfl, Nat.add_lt_add_left hab vx⟩

/-- Within a row the columns rise, and from a row to a later one the rows do. -/
theorem pairwise_before_spritePoints (m : Memory) (base n vx vy : Nat) :
    (spritePoints m base n vx vy).Pairwise DisplayEvent.before := by
  refine List.pairwise_flatMap.mpr ⟨fun r _ => pairwise_before_rowPoints _ _ _, ?_⟩
  refine List.pairwise_lt_range.imp fun {r r'} hlt p hp q hq => ?_
  obtain ⟨c, -, -, rfl⟩ := (mem_rowPoints ..).mp hp
  obtain ⟨c', -, -, rfl⟩ := (mem_rowPoints ..).mp hq
  exact .inl (Nat.add_lt_add_left hlt vy)

/-- A byte plus a column of 0 to 7 is at most 262, a byte plus a row of 0 to 14 at most 269. -/
theorem inBounds_of_mem_spritePoints (m : Memory) (base : Nat) (n : Nibble) (vx vy : Byte) :
    ∀ e ∈ spritePoints m base n.toNat vx.toNat vy.toNat, e.inBounds := by
  intro e he
  obtain ⟨r, c, hr, hc, -, rfl⟩ := (mem_spritePoints ..).mp he
  have hn := n.isLt
  have hx := vx.isLt
  have hy := vy.isLt
  exact ⟨by omega, by omega⟩

/-! ## The instruction -/

theorem State.emit_nil (s : State) : s.emit [] = s := by
  rw [State.emit, List.append_nil]

theorem exec_drw (x y : Reg) (n : Nibble) (s : State) :
    exec (.drw x y n) s =
      if n = 0#4 then .next s
      else if s.dataOk (n.toNat - 1) then
        .next (s.emit (spritePoints s.mem (s.dataAddr 0) n.toNat (s.reg x).toNat (s.reg y).toNat))
      else .next (s.raiseIn (.memoryFault .read (s.dataAddr (n.toNat - 1))) (.drw x y n)) := rfl

/-- A sprite of no rows has no points, so both answers without a fault are one emission. -/
theorem exec_drw_of_range_inside (x y : Reg) (n : Nibble) (s : State)
    (h : n.toNat = 0 ∨ s.i.toNat + n.toNat - 1 ≤ 0xFFF) :
    exec (.drw x y n) s =
      .next (s.emit (spritePoints s.mem (s.dataAddr 0) n.toNat (s.reg x).toNat (s.reg y).toNat)) := by
  rw [exec_drw]
  by_cases hn : n = 0#4
  · subst hn
    rw [if_pos rfl]
    exact congrArg _ s.emit_nil.symm
  · have hpos : n.toNat ≠ 0 := fun h0 => hn (BitVec.eq_of_toNat_eq h0)
    rw [if_neg hn, if_pos ((s.dataOk_iff _).mpr (by omega))]

theorem exec_drw_of_range_past (x y : Reg) (n : Nibble) (s : State) (hpos : 0 < n.toNat)
    (h : 0xFFF < s.i.toNat + n.toNat - 1) :
    exec (.drw x y n) s = .next (s.raiseIn (.memoryFault .read (s.i.toNat + n.toNat - 1)) (.drw x y n)) := by
  have hn : n ≠ 0#4 := fun h0 => absurd (congrArg BitVec.toNat h0) (Nat.ne_of_gt hpos)
  have hpast : ¬ s.dataOk (n.toNat - 1) = true := mt (s.dataOk_iff _).mp (by omega)
  rw [exec_drw, if_neg hn, if_neg hpast, State.dataAddr, Nat.add_sub_assoc hpos]

/-! ## The obligations -/

/-- Settles O44: the events are the sprite's points, each of which is one set bit of one row. -/
theorem drwEmitsTheLitPixels : Obligations.DrwEmitsTheLitPixels := fun x y n s h =>
  ⟨_, _, exec_drw_of_range_inside x y n s h, rfl, mem_spritePoints s.mem _ n.toNat _ _,
    pairwise_before_spritePoints s.mem _ n.toNat _ _, fun _ => rfl⟩

/-- Settles O45: the range check comes before any emission, and a fault writes the latch and the record alone. -/
theorem drwPastMemoryFaults : Obligations.DrwPastMemoryFaults := fun x y n s hrun hpos h => by
  rw [exec_drw_of_range_past x y n s hpos h, s.raiseIn_eq_faulted _ _ hrun]

/-! ## The sink -/

theorem Picture.get_light_of_lit (g : Picture) (px a : Fin 64) (py b : Fin 32) (h : (g.get a).get b = true) :
    ((g.light px py).get a).get b = true := by
  rw [Picture.get_light, h, ite_self]

/-- A point leaves the grid as it is, lights one pixel of it, or is refused. -/
theorem Picture.draw_point_keeps_lit {policy : OutOfGrid} {g g' : Picture} {qx qy : Nat} {px : Fin 64} {py : Fin 32}
    (hdraw : g.draw policy (.point qx qy) = some g') (h : (g.get px).get py = true) : (g'.get px).get py = true := by
  simp only [Picture.draw] at hdraw
  split at hdraw
  case isTrue =>
    obtain rfl := Option.some.inj hdraw
    exact g.get_light_of_lit _ _ _ _ h
  case isFalse =>
    cases policy with
    | drop => exact Option.some.inj hdraw ▸ h
    | wrap =>
      obtain rfl := Option.some.inj hdraw
      exact g.get_light_of_lit _ _ _ _ h
    | refuse => cases hdraw

/-- Events none of which is a clear keep every lit pixel. -/
theorem Picture.drawAll_keeps_lit {policy : OutOfGrid} {px : Fin 64} {py : Fin 32} (es : List DisplayEvent)
    (hes : .clear ∉ es) (g g' : Picture) (hdraw : Picture.drawAll policy g es = some g')
    (h : (g.get px).get py = true) : (g'.get px).get py = true := by
  induction es generalizing g with
  | nil => exact Option.some.inj hdraw ▸ h
  | cons e es ih =>
    obtain ⟨he, hes⟩ := not_or.mp (mt List.mem_cons.mpr hes)
    rw [Picture.drawAll] at hdraw
    split at hdraw
    case h_1 g₁ hstep =>
      refine ih hes g₁ hdraw ?_
      cases e with
      | clear => exact absurd rfl he
      | point qx qy => exact Picture.draw_point_keeps_lit hstep h
    case h_2 => cases hdraw

theorem clear_notMem_spritePoints (m : Memory) (base n vx vy : Nat) : .clear ∉ spritePoints m base n vx vy := by
  intro hmem
  obtain ⟨r, c, -, -, -, he⟩ := (mem_spritePoints ..).mp hmem
  cases he

/-- Settles O46: a sprite's events are points, and no policy of the sink lets a point clear a pixel. -/
theorem pointsNeverClearAPixel : Obligations.PointsNeverClearAPixel :=
  fun _ m base n vx vy g g' _ _ hdraw h =>
    Picture.drawAll_keeps_lit _ (clear_notMem_spritePoints m base n vx vy) g g' hdraw h

end Sys2Proof.Machine
end

section
/-! What an instruction can do, said once (00_scope.md R12): the fault of its row of R202's table, or one of the few
effects the 35 instructions share. The frames of an instruction are read off that. -/

namespace Sys2Proof.Machine

/-! ## Under the condition of its row, an instruction is its fault -/

/-- `RND` in the form of the other register writes: one register, and the draw counter. -/
theorem exec_rnd (x : Reg) (kk : Byte) (s : State) :
    exec (.rnd x kk) s = .next { s.setReg x (Config.randomByte s.draws &&& kk) with draws := s.draws + 1 } := rfl

theorem exec_eq_raiseIn_of_range_past {i : Instr} {s : State} {last : Nat} {c : FaultCause} {r : Result}
    (hexec : exec i s = if s.dataOk last then r else .next (s.raiseIn c i)) (h : 0xFFF < s.i.toNat + last) :
    exec i s = .next (s.raiseIn c i) :=
  hexec.trans (if_neg (mt (s.dataOk_iff last).mp (Nat.not_le.mpr h)))

theorem exec_of_faultOf_eq_some {i : Instr} {s : State} {c : FaultCause} (h : faultOf i s = some c) :
    exec i s = .next (s.raiseIn c i) := by
  cases i
  case call addr =>
    obtain ⟨hfull, rfl⟩ := Option.ite_some_none_eq_some.mp h
    change execCall addr s = _
    rw [execCall, s.push_of_sp_eq_sixteen _ hfull]
  case ret =>
    obtain ⟨hempty, rfl⟩ := Option.ite_some_none_eq_some.mp h
    change execRet s = _
    rw [execRet, s.pop_of_sp_eq_zero hempty]
  case drw x y n =>
    obtain ⟨⟨hpos, hpast⟩, rfl⟩ := Option.ite_some_none_eq_some.mp h
    exact exec_drw_of_range_past x y n s hpos hpast
  case ldB x =>
    obtain ⟨hpast, rfl⟩ := Option.ite_some_none_eq_some.mp h
    exact exec_eq_raiseIn_of_range_past (exec_ldB x s) hpast
  case storeRegs x =>
    obtain ⟨hpast, rfl⟩ := Option.ite_some_none_eq_some.mp h
    exact exec_eq_raiseIn_of_range_past (exec_storeRegs x s) hpast
  case loadRegs x =>
    obtain ⟨hpast, rfl⟩ := Option.ite_some_none_eq_some.mp h
    exact exec_eq_raiseIn_of_range_past (exec_loadRegs x s) hpast
  all_goals cases h

/-- A row of R202's table answers no fault only if its condition does not hold. -/
theorem not_of_guard_eq_none {p : Prop} [Decidable p] {c : FaultCause} (h : (if p then some c else none) = none) :
    ¬ p := fun hp => nomatch ite_eq_right_iff.mp h hp

/-- A memory fault of an instruction is about a data access, to an address above `0xFFF` (20_memory.md R55). -/
theorem past_of_faultOf_eq_memoryFault {i : Instr} {s : State} {k : AccessKind} {a : Nat}
    (h : faultOf i s = some (.memoryFault k a)) : k ≠ .fetch ∧ 0xFFF < a := by
  cases i
  case call | ret => cases (Option.ite_some_none_eq_some.mp h).2
  case drw =>
    obtain ⟨⟨-, hpast⟩, hc⟩ := Option.ite_some_none_eq_some.mp h
    cases hc
    exact ⟨by decide, hpast⟩
  case ldB | storeRegs | loadRegs =>
    obtain ⟨hpast, hc⟩ := Option.ite_some_none_eq_some.mp h
    cases hc
    exact ⟨by decide, hpast⟩
  all_goals cases h

/-! ## The effects -/

/-- `t` is what instruction `i` makes of `s`: the fault of its row, or the one write its family does. -/
inductive Effect (i : Instr) (s : State) : State → Prop where
  | fault {c : FaultCause} (h : faultOf i s = some c) : Effect i s (s.raiseIn c i)
  /-- registers, those of `writesReg` alone -/
  | regs {v : Vector Byte 16} (others : ∀ z, writesReg i z = false → v.get z = s.reg z) : Effect i s { s with v := v }
  | rnd {v : Vector Byte 16} (hi : ∃ x kk, i = .rnd x kk) (others : ∀ z, writesReg i z = false → v.get z = s.reg z) :
    Effect i s { s with v := v, draws := s.draws + 1 }
  | emit {es : List DisplayEvent} (hi : i = .cls ∨ ∃ x y n, i = .drw x y n) (bounded : ∀ e ∈ es, e.inBounds) :
    Effect i s (s.emit es)
  | ret {k : Fin 16} (hi : i = .ret) (newest : s.sp.val = k.val + 1) :
    Effect i s { s with pc := s.stack.get k, sp := k.castSucc }
  | call {addr : Addr} {stack : Vector Word 16} {sp : Fin 17} (hi : i = .call addr) (counted : sp.val = s.sp.val + 1)
    (pushed : ∀ k : Fin 16, stack.get k = if k.val = s.sp.val then s.pc else s.stack.get k) :
    Effect i s { s with pc := zextAddr addr, stack := stack, sp := sp }
  /-- at most `0x0FFF`, and `0xFF` more for the indexed jump -/
  | jump {w : Word} (hi : writesPc i) (bounded : w.toNat ≤ 0x10FE) : Effect i s (s.jump w)
  | skip {c : Bool} (hi : writesPc i) : Effect i s (s.skipIf c)
  | index {w : Word} (hi : writesIndex i) : Effect i s { s with i := w }
  | delay {b : Byte} (hi : ∃ x, i = .ldDT x) : Effect i s { s with dt := b }
  | sound {b : Byte} (hi : ∃ x, i = .ldST x) : Effect i s { s with st := b }
  /-- a run of bytes from `I` on, those of `storesAt` -/
  | store {vs : List Byte} (inside : s.dataAddr 0 + vs.length ≤ Config.memSize)
    (named : ∀ a, s.dataAddr 0 ≤ a → a < s.dataAddr 0 + vs.length → storesAt i s a) :
    Effect i s { s with mem := s.mem.writeRun (s.dataAddr 0) vs }

theorem Effect.setReg {i : Instr} {s : State} {x : Reg} {b : Byte} (hi : ∀ z, writesReg i z = (z == x)) :
    Effect i s (s.setReg x b) :=
  .regs fun z hz => s.reg_setReg_of_ne b (beq_eq_false_iff_ne.mp ((hi z).symm.trans hz))

theorem Effect.setFlagThenReg {i : Instr} {s : State} {x : Reg} {f b : Byte}
    (hi : ∀ z, writesReg i z = (z == x || z == VF)) : Effect i s ((s.setReg 15 f).setReg x b) := by
  refine .regs fun z hz => ?_
  obtain ⟨hx, hf⟩ := Bool.or_eq_false_iff.mp ((hi z).symm.trans hz)
  exact (State.reg_setReg_of_ne _ b (beq_eq_false_iff_ne.mp hx)).trans
    (s.reg_setReg_of_ne f (beq_eq_false_iff_ne.mp hf))

theorem writesPc_of_addr {i : Instr} {a : Addr} (h : i = .sys a ∨ i = .jp a ∨ i = .call a ∨ i = .jpV0 a) : writesPc i :=
  .inr (.inl ⟨a, h⟩)

theorem writesPc_of_immediate {i : Instr} {x : Reg} {kk : Byte} (h : i = .seImm x kk ∨ i = .sneImm x kk) : writesPc i :=
  .inr (.inr (.inl ⟨x, kk, h⟩))

theorem writesPc_of_registers {i : Instr} {x y : Reg} (h : i = .seReg x y ∨ i = .sneReg x y) : writesPc i :=
  .inr (.inr (.inr (.inl ⟨x, y, h⟩)))

theorem writesPc_of_key {i : Instr} {x : Reg} (h : i = .skp x ∨ i = .sknp x) : writesPc i :=
  .inr (.inr (.inr (.inr ⟨x, h⟩)))

theorem zextAddr_toNat_le (addr : Addr) : (zextAddr addr).toNat ≤ 0x10FE := by
  have := addr.isLt
  rw [zextAddr_toNat]
  omega

/-- An instruction without a fault answers a next state, by the effect of its family. -/
theorem exec_of_faultOf_eq_none {i : Instr} {s : State} (h : faultOf i s = none) :
    ∃ t, exec i s = .next t ∧ Effect i s t := by
  cases i with
  | cls => exact ⟨_, exec_cls s, .emit (.inl rfl) (by simp [DisplayEvent.inBounds])⟩
  | ret =>
    have hsp : s.sp.val ≠ 0 := not_of_guard_eq_none h
    have hnewest : s.sp.val = (⟨s.sp.val - 1, by omega⟩ : Fin 16).val + 1 := by simp only; omega
    exact ⟨_, exec_ret_of_sp_eq_succ s _ hnewest, .ret rfl hnewest⟩
  | sys addr => exact ⟨_, exec_sys addr s, .jump (writesPc_of_addr (.inl rfl)) (zextAddr_toNat_le addr)⟩
  | jp addr => exact ⟨_, exec_jp addr s, .jump (writesPc_of_addr (.inr (.inl rfl))) (zextAddr_toNat_le addr)⟩
  | call addr =>
    have hsp : s.sp.val ≠ 16 := not_of_guard_eq_none h
    obtain ⟨t, hpush, hcounted, hpushed, ht⟩ := s.push_of_sp_lt s.pc (by omega)
    refine ⟨_, exec_call_of_push addr s t hpush, ?_⟩
    rw [State.jump, ht]
    exact .call rfl hcounted hpushed
  | seImm x kk => exact ⟨_, exec_seImm x kk s, .skip (writesPc_of_immediate (.inl rfl))⟩
  | sneImm x kk => exact ⟨_, exec_sneImm x kk s, .skip (writesPc_of_immediate (.inr rfl))⟩
  | seReg x y => exact ⟨_, exec_seReg x y s, .skip (writesPc_of_registers (.inl rfl))⟩
  | sneReg x y => exact ⟨_, exec_sneReg x y s, .skip (writesPc_of_registers (.inr rfl))⟩
  | skp x => exact ⟨_, exec_skp x s, .skip (writesPc_of_key (.inl rfl))⟩
  | sknp x => exact ⟨_, exec_sknp x s, .skip (writesPc_of_key (.inr rfl))⟩
  | ldImm x kk => exact ⟨_, exec_ldImm x kk s, .setReg fun _ => rfl⟩
  | addImm x kk => exact ⟨_, exec_addImm x kk s, .setReg fun _ => rfl⟩
  | ldReg x y => exact ⟨_, exec_ldReg x y s, .setReg fun _ => rfl⟩
  | orReg x y => exact ⟨_, exec_orReg x y s, .setReg fun _ => rfl⟩
  | andReg x y => exact ⟨_, exec_andReg x y s, .setReg fun _ => rfl⟩
  | xorReg x y => exact ⟨_, exec_xorReg x y s, .setReg fun _ => rfl⟩
  | addReg x y => exact ⟨_, exec_addReg x y s, .setReg fun _ => rfl⟩
  | subReg x y => exact ⟨_, exec_subReg x y s, .setReg fun _ => rfl⟩
  | shr x y => exact ⟨_, exec_shr x y s, .setFlagThenReg fun _ => rfl⟩
  | subn x y => exact ⟨_, exec_subn x y s, .setFlagThenReg fun _ => rfl⟩
  | shl x y => exact ⟨_, exec_shl x y s, .setFlagThenReg fun _ => rfl⟩
  | ldVxDT x => exact ⟨_, exec_ldVxDT x s, .setReg fun _ => rfl⟩
  | ldVxK x => exact ⟨_, exec_ldVxK x s, .setReg fun _ => rfl⟩
  | ldI addr => exact ⟨_, exec_ldI addr s, .index (.inl ⟨addr, rfl⟩)⟩
  | addI x => exact ⟨_, exec_addI x s, .index (.inr ⟨x, .inl rfl⟩)⟩
  | ldF x => exact ⟨_, exec_ldF x s, .index (.inr ⟨x, .inr rfl⟩)⟩
  | jpV0 addr =>
    refine ⟨_, exec_jpV0 addr s, .jump (writesPc_of_addr (.inr (.inr (.inr rfl)))) ?_⟩
    have haddr := addr.isLt
    have hv0 := (s.reg 0).isLt
    rw [zextAddr_add_zextByte_toNat]
    omega
  | rnd x kk =>
    exact ⟨_, exec_rnd x kk s, .rnd ⟨x, kk, rfl⟩ fun z hz => s.reg_setReg_of_ne _ (beq_eq_false_iff_ne.mp hz)⟩
  | drw x y n =>
    have hinside : ¬ (n.toNat > 0 ∧ s.i.toNat + n.toNat - 1 > 0xFFF) := not_of_guard_eq_none h
    exact ⟨_, exec_drw_of_range_inside x y n s (by omega),
      .emit (.inr ⟨x, y, n, rfl⟩) (inBounds_of_mem_spritePoints s.mem _ n _ _)⟩
  | ldDT x => exact ⟨_, exec_ldDT x s, .delay ⟨x, rfl⟩⟩
  | ldST x => exact ⟨_, exec_ldST x s, .sound ⟨x, rfl⟩⟩
  | ldB x =>
    have hinside : ¬ s.i.toNat + 2 > 0xFFF := not_of_guard_eq_none h
    exact ⟨_, exec_eq_next_of_range_inside (exec_ldB x s) (Nat.not_lt.mp hinside),
      .store (Nat.succ_le_succ (Nat.not_lt.mp hinside)) fun a hle hlt => ⟨hle, x, .inl ⟨rfl, hlt⟩⟩⟩
  | storeRegs x =>
    have hinside : ¬ s.i.toNat + x.val > 0xFFF := not_of_guard_eq_none h
    have hlen := regsTo_map_length x s.reg
    exact ⟨_, exec_eq_next_of_range_inside (exec_storeRegs x s) (Nat.not_lt.mp hinside),
      .store (hlen ▸ Nat.succ_le_succ (Nat.not_lt.mp hinside)) fun a hle hlt => ⟨hle, x, .inr ⟨rfl, hlen ▸ hlt⟩⟩⟩
  | loadRegs x =>
    have hinside : ¬ s.i.toNat + x.val > 0xFFF := not_of_guard_eq_none h
    refine ⟨_, exec_eq_next_of_range_inside (exec_loadRegs x s) (Nat.not_lt.mp hinside), ?_⟩
    rw [State.setRegs_eq]
    refine .regs fun z hz => (RegsOnly.setRegs s (regsTo x) _).others z fun hmem => ?_
    exact of_decide_eq_false hz ((mem_regsTo x z).mp hmem)

theorem exec_effect (i : Instr) (s : State) : ∃ t, exec i s = .next t ∧ Effect i s t := by
  cases hf : faultOf i s with
  | none => exact exec_of_faultOf_eq_none hf
  | some c => exact ⟨_, exec_of_faultOf_eq_some hf, .fault hf⟩

/-- Whatever an instruction answers is its effect. -/
theorem effect_of_exec_eq_next {i : Instr} {s t : State} (h : exec i s = .next t) : Effect i s t := by
  obtain ⟨u, hu, heff⟩ := exec_effect i s
  obtain rfl := Host.Outcome.next.inj (h.symm.trans hu)
  exact heff

end Sys2Proof.Machine
end

section
/-! The frames of an instruction and of the tick's phases: what each leaves as it was, read off the effects. -/

namespace Sys2Proof.Machine

/-! ## What an effect leaves unchanged -/

section
variable {i : Instr} {s t : State} (h : Effect i s t)
include h

theorem Effect.reg_eq (z : Reg) (hz : writesReg i z = false) : t.reg z = s.reg z := by
  cases h with
  | regs others => exact others z hz
  | rnd _ others => exact others z hz
  | _ => rfl

theorem Effect.read_eq (a : Nat) (ha : ¬ storesAt i s a) : t.mem.read a = s.mem.read a := by
  cases h with
  | store inside named =>
    exact (BytesOnly.writeRun s _ _ inside).outside a fun hrange => ha (named a hrange.1 hrange.2)
  | _ => rfl

theorem Effect.i_eq (hi : ¬ writesIndex i) : t.i = s.i := by
  cases h with
  | index hi' => exact absurd hi' hi
  | _ => rfl

theorem Effect.pc_eq (hi : ¬ writesPc i) : t.pc = s.pc := by
  cases h with
  | ret hi' => exact absurd (.inl hi') hi
  | call hi' => exact absurd (writesPc_of_addr (.inr (.inr (.inl hi')))) hi
  | jump hi' | skip hi' => exact absurd hi' hi
  | _ => rfl

theorem Effect.stack_get_eq (k : Fin 16) (hk : ∀ a, i = .call a → k.val ≠ s.sp.val) :
    t.stack.get k = s.stack.get k := by
  cases h with
  | call hi' _ pushed => exact (pushed k).trans (if_neg (hk _ hi'))
  | _ => rfl

theorem Effect.sp_eq (hcall : ∀ a, i ≠ .call a) (hret : i ≠ .ret) : t.sp = s.sp := by
  cases h with
  | ret hi' => exact absurd hi' hret
  | call hi' => exact absurd hi' (hcall _)
  | _ => rfl

theorem Effect.dt_eq (hi : ∀ x, i ≠ .ldDT x) : t.dt = s.dt := by
  cases h with
  | delay hi' => exact absurd hi' (not_exists.mpr hi)
  | _ => rfl

theorem Effect.st_eq (hi : ∀ x, i ≠ .ldST x) : t.st = s.st := by
  cases h with
  | sound hi' => exact absurd hi' (not_exists.mpr hi)
  | _ => rfl

theorem Effect.events_eq (hcls : i ≠ .cls) (hdrw : ∀ x y n, i ≠ .drw x y n) : t.events = s.events := by
  cases h with
  | emit hi' =>
    obtain hi' | ⟨x, y, n, hi'⟩ := hi'
    · exact absurd hi' hcls
    · exact absurd hi' (hdrw x y n)
  | _ => rfl

theorem Effect.draws_eq (hi : ∀ x kk, i ≠ .rnd x kk) : t.draws = s.draws := by
  cases h with
  | rnd hi' =>
    obtain ⟨x, kk, hi'⟩ := hi'
    exact absurd hi' (hi x kk)
  | _ => rfl

theorem Effect.halted_eq (hf : faultOf i s = none) : t.halted = s.halted := by
  cases h with
  | fault hc => cases hf.symm.trans hc
  | _ => rfl

theorem Effect.fault_eq (hf : faultOf i s = none) : t.fault = s.fault := by
  cases h with
  | fault hc => cases hf.symm.trans hc
  | _ => rfl

theorem Effect.key_eq : t.key = s.key := by cases h <;> rfl

theorem Effect.params_eq : t.params = s.params := by cases h <;> rfl

theorem Effect.monitor_eq : t.monitor = s.monitor := by cases h <;> rfl

theorem Effect.schedule_eq : t.schedule = s.schedule := by cases h <;> rfl

theorem Effect.ended_eq : t.ended = s.ended := by cases h <;> rfl

end

/-- Settles O22: each clause is the frame of one element under the effect of the instruction. -/
theorem instructionsChangeOnlyWhatTheirRowsName : Obligations.InstructionsChangeOnlyWhatTheirRowsName := by
  intro i s t hexec
  have h := effect_of_exec_eq_next hexec
  exact ⟨h.reg_eq, h.read_eq, h.i_eq, h.pc_eq, h.stack_get_eq, h.sp_eq, h.dt_eq, h.st_eq, h.events_eq, h.draws_eq,
    fun hf => ⟨h.halted_eq hf, h.fault_eq hf⟩, h.key_eq, h.params_eq, h.monitor_eq, h.schedule_eq, h.ended_eq⟩

/-- Settles O23: with the condition of its row an instruction is its fault alone, without it an effect that leaves the
latch and the record. -/
theorem instructionsFaultExactlyAsListed : Obligations.InstructionsFaultExactlyAsListed := by
  refine fun i s hrun => ⟨fun c hc => ?faults, fun hf => ?runs⟩
  case faults => rw [exec_of_faultOf_eq_some hc, s.raiseIn_eq_faulted c i hrun]
  case runs =>
    obtain ⟨t, hexec, h⟩ := exec_of_faultOf_eq_none hf
    exact ⟨t, hexec, (h.halted_eq hf).trans hrun, h.fault_eq hf⟩

/-- Settles O43: the write of one register and of the counter, and a mask drops every bit outside it. -/
theorem rndMasksTheDraw : Obligations.RndMasksTheDraw := by
  intro x kk s
  refine ⟨_, exec_rnd x kk s, s.reg_setReg_same x _, ?masked, rfl, fun z hz => s.reg_setReg_of_ne _ hz, rfl,
    fun _ => rfl⟩
  case masked =>
    refine (congrArg (· &&& ~~~ kk) (s.reg_setReg_same x _)).trans ?_
    rw [BitVec.and_assoc, BitVec.and_not_self]
    exact BitVec.and_zero

/-! ## What an instruction does not read -/

/-- The state with another `ST`, other events and another monitor: what no instruction reads (10_state.md R28,
45_draw.md R154, 60_exceptions.md R226). -/
def State.withUnread (s : State) (b : Byte) (es : List DisplayEvent) (m : Monitor) : State :=
  { s with st := b, events := es, monitor := m }

/-- What `ST` holds after `i`, when it held `b` before. -/
def soundAfter (i : Instr) (s : State) (b : Byte) : Byte :=
  match i with
  | .ldST x => s.reg x
  | _ => b

/-- `i` answers `t` on `s` after `new` events, and does the same to all else whatever `ST`, the events and the monitor
were. -/
def SameFromUnread (i : Instr) (s t : State) (new : List DisplayEvent) : Prop :=
  exec i s = .next t ∧ t.events = s.events ++ new ∧
    ∀ b es m, exec i (s.withUnread b es m) = .next (t.withUnread (soundAfter i s b) (es ++ new) m)

theorem sameFromUnread_of_silent {i : Instr} {s t : State} (hexec : exec i s = .next t) (hevents : t.events = s.events)
    (hsame : ∀ b es m, exec i (s.withUnread b es m) = .next (t.withUnread (soundAfter i s b) es m)) :
    SameFromUnread i s t [] := by
  refine ⟨hexec, by rw [hevents, List.append_nil], fun b es m => ?_⟩
  rw [List.append_nil, hsame]

theorem State.setRegs_withUnread (ks : List Reg) (f : Reg → Byte) (s : State) (b : Byte) (es : List DisplayEvent)
    (m : Monitor) : (s.withUnread b es m).setRegs ks f = (s.setRegs ks f).withUnread b es m := by
  induction ks generalizing s with
  | nil => rfl
  | cons k ks ih => exact ih (s.setReg k (f k))

/-- Apart from `LD ST, Vx`, what `ST` held is what it holds. -/
theorem soundAfter_eq (i : Instr) (s : State) (b : Byte) (hi : ∀ x, i ≠ .ldST x) : soundAfter i s b = b := by
  cases i
  case ldST x => exact absurd rfl (hi x)
  all_goals rfl

theorem faultOf_withUnread (i : Instr) (s : State) (b : Byte) (es : List DisplayEvent) (m : Monitor) :
    faultOf i (s.withUnread b es m) = faultOf i s := by
  cases i <;> rfl

theorem exists_sameFromUnread (i : Instr) (s : State) : ∃ t new, SameFromUnread i s t new := by
  cases hf : faultOf i s with
  | some c =>
    refine ⟨_, [], sameFromUnread_of_silent (exec_of_faultOf_eq_some hf) rfl fun b es m => ?_⟩
    have hi : ∀ x, i ≠ .ldST x := by
      rintro x rfl
      cases hf
    rw [exec_of_faultOf_eq_some ((faultOf_withUnread i s b es m).trans hf), soundAfter_eq i s b hi]
    rfl
  | none =>
    cases i
    case cls => exact ⟨_, [.clear], exec_cls s, rfl, fun _ _ _ => rfl⟩
    case drw x y n =>
      have hinside : ¬ (n.toNat > 0 ∧ s.i.toNat + n.toNat - 1 > 0xFFF) := not_of_guard_eq_none hf
      have hrange : n.toNat = 0 ∨ s.i.toNat + n.toNat - 1 ≤ 0xFFF := by omega
      exact ⟨_, _, exec_drw_of_range_inside x y n s hrange, rfl, fun b es m =>
        exec_drw_of_range_inside x y n (s.withUnread b es m) hrange⟩
    case ret =>
      have hsp : s.sp.val ≠ 0 := not_of_guard_eq_none hf
      have hnewest : s.sp.val = (⟨s.sp.val - 1, by omega⟩ : Fin 16).val + 1 := by simp only; omega
      exact ⟨_, [], sameFromUnread_of_silent (exec_ret_of_sp_eq_succ s _ hnewest) rfl fun b es m =>
        exec_ret_of_sp_eq_succ (s.withUnread b es m) _ hnewest⟩
    case call addr =>
      have hsp : ¬ s.sp.val = 16 := not_of_guard_eq_none hf
      have hlt : s.sp.val < 16 := by omega
      have hpush (u : State) (hu : u.sp = s.sp) := exec_call_of_push addr u _ (dif_pos (hu ▸ hlt))
      exact ⟨_, [], sameFromUnread_of_silent (hpush s rfl) rfl fun b es m => hpush (s.withUnread b es m) rfl⟩
    case ldB x =>
      have hinside : ¬ s.i.toNat + 2 > 0xFFF := not_of_guard_eq_none hf
      have hexec (u : State) (hu : u.i = s.i) :=
        exec_eq_next_of_range_inside (exec_ldB x u) (hu ▸ Nat.not_lt.mp hinside)
      exact ⟨_, [], sameFromUnread_of_silent (hexec s rfl) rfl fun b es m => hexec (s.withUnread b es m) rfl⟩
    case storeRegs x =>
      have hinside : ¬ s.i.toNat + x.val > 0xFFF := not_of_guard_eq_none hf
      have hexec (u : State) (hu : u.i = s.i) :=
        exec_eq_next_of_range_inside (exec_storeRegs x u) (hu ▸ Nat.not_lt.mp hinside)
      exact ⟨_, [], sameFromUnread_of_silent (hexec s rfl) rfl fun b es m => hexec (s.withUnread b es m) rfl⟩
    case loadRegs x =>
      have hinside : ¬ s.i.toNat + x.val > 0xFFF := not_of_guard_eq_none hf
      have hexec (u : State) (hu : u.i = s.i) :=
        exec_eq_next_of_range_inside (exec_loadRegs x u) (hu ▸ Nat.not_lt.mp hinside)
      refine ⟨_, [], sameFromUnread_of_silent (hexec s rfl) ?_ fun b es m => ?_⟩
      · rw [State.setRegs_eq]
      · rw [hexec (s.withUnread b es m) rfl, State.setRegs_withUnread]
        rfl
    all_goals exact ⟨_, [], sameFromUnread_of_silent rfl rfl fun _ _ _ => rfl⟩

theorem sameFromUnread_of_exec_eq_next {i : Instr} {s t : State} (hexec : exec i s = .next t) :
    ∃ new, SameFromUnread i s t new := by
  obtain ⟨u, new, hsame⟩ := exists_sameFromUnread i s
  obtain rfl := Host.Outcome.next.inj (hexec.symm.trans hsame.1)
  exact ⟨new, hsame⟩

/-- What `i` answers is what it answers from the state's own `ST`, events and monitor. -/
theorem SameFromUnread.eq_withUnread {i : Instr} {s t : State} {new : List DisplayEvent}
    (h : SameFromUnread i s t new) :
    t = t.withUnread (soundAfter i s s.st) (s.events ++ new) s.monitor := by
  obtain ⟨hexec, -, hsame⟩ := h
  exact Host.Outcome.next.inj (hexec.symm.trans (hsame s.st s.events s.monitor))

/-- Settles O26: the events and the monitor are the state's own, and only `LD ST, Vx` puts another value in `ST`. -/
theorem soundTimerIsNeverRead : Obligations.SoundTimerIsNeverRead := by
  intro i s t b hexec
  obtain ⟨new, h⟩ := sameFromUnread_of_exec_eq_next hexec
  obtain ⟨-, -, hsame⟩ := id h
  have hsound : soundAfter i s b = if ∃ x, i = .ldST x then t.st else b := by
    split
    case isTrue hi =>
      obtain ⟨x, rfl⟩ := hi
      exact congrArg State.st h.eq_withUnread.symm
    case isFalse hi => exact soundAfter_eq i s b (not_exists.mp hi)
  rw [← hsound]
  exact (hsame b s.events s.monitor).trans
    (congrArg (fun u : State => Host.Outcome.next { u with st := soundAfter i s b }) h.eq_withUnread.symm)

/-- Settles O27: the new events do not depend on those before, and `ST` and the monitor are the state's own. -/
theorem displayIsNeverRead : Obligations.DisplayIsNeverRead := by
  intro i s t hexec
  obtain ⟨new, h⟩ := sameFromUnread_of_exec_eq_next hexec
  obtain ⟨-, hevents, hsame⟩ := id h
  exact ⟨new, hevents, fun es => (hsame s.st es s.monitor).trans
    (congrArg (fun u : State => Host.Outcome.next { u with events := es ++ new }) h.eq_withUnread.symm)⟩

/-- Settles O28: `ST` and the events are the state's own. -/
theorem monitorIsInvisibleToInstructions : Obligations.MonitorIsInvisibleToInstructions := by
  intro i s t m hexec
  obtain ⟨new, h⟩ := sameFromUnread_of_exec_eq_next hexec
  obtain ⟨-, -, hsame⟩ := id h
  exact (hsame s.st s.events m).trans
    (congrArg (fun u : State => Host.Outcome.next { u with monitor := m }) h.eq_withUnread.symm)

/-! ## Two instructions in a row -/

/-- Settles O34: the entry `CALL` wrote is the newest one, so `RET` takes the pushed `pc` from it. -/
theorem retUndoesCall : Obligations.RetUndoesCall := by
  intro addr s t hsp hexec
  obtain ⟨u, hpush, hcounted, hpushed, hu⟩ := s.push_of_sp_lt s.pc hsp
  obtain rfl := Host.Outcome.next.inj (hexec.symm.trans (exec_call_of_push addr s u hpush))
  have hret := exec_ret_of_sp_eq_succ (u.jump (zextAddr addr)) ⟨s.sp.val, hsp⟩ hcounted
  have hpc : u.stack.get ⟨s.sp.val, hsp⟩ = s.pc := (hpushed _).trans (if_pos rfl)
  refine ⟨_, hret, hpc, rfl, ?_⟩
  rw [State.jump_stack, hpc, State.jump, hu]
  rfl

/-- After `LD [I], Vx` the byte at `I + k` is register `k`. -/
theorem read_of_exec_storeRegs {x : Reg} {s t : State} (h : s.i.toNat + x.val ≤ 0xFFF)
    (hexec : exec (.storeRegs x) s = .next t) (k : Reg) (hk : k ≤ x) : t.mem.read (s.dataAddr k.val) = s.reg k := by
  obtain ⟨hstores, -⟩ := storeWritesTheRegisterRun x s
  obtain ⟨u, hu, -, hread⟩ := hstores h
  obtain rfl := Host.Outcome.next.inj (hexec.symm.trans hu)
  exact hread k hk

/-- `LD [I], Vx` inside memory writes nothing but memory. -/
theorem eq_of_exec_storeRegs {x : Reg} {s t : State} (h : s.i.toNat + x.val ≤ 0xFFF)
    (hexec : exec (.storeRegs x) s = .next t) : t = { s with mem := t.mem } := by
  obtain ⟨hstores, -⟩ := storeWritesTheRegisterRun x s
  obtain ⟨u, hu, hbytes, -⟩ := hstores h
  obtain rfl := Host.Outcome.next.inj (hexec.symm.trans hu)
  exact hbytes.rest

/-- Settles O53: the load reads the bytes the store wrote, from the same `I`, whatever the registers hold. -/
theorem storeThenLoadRoundTrip : Obligations.StoreThenLoadRoundTrip := by
  intro x s t v h hexec
  have hi : t.i = s.i := by rw [eq_of_exec_storeRegs h hexec]
  obtain ⟨hloads, -⟩ := loadReadsTheRegisterRun x { t with v := v }
  obtain ⟨u, hu, honly, hreg⟩ := hloads (hi ▸ h)
  refine ⟨u, hu, by rw [honly.rest, hi], fun k hk => (hreg k hk).trans ?_⟩
  rw [← read_of_exec_storeRegs h hexec k hk]
  exact congrArg (fun w : Word => t.mem.read (w.toNat + k.val)) hi

theorem State.fetch_of_le (s : State) (h : s.pc.toNat + 1 ≤ 0xFFF) :
    s.fetch = some (wordOfBytes (s.mem.read s.pc.toNat) (s.mem.read (s.pc.toNat + 1))) :=
  if_pos (Nat.lt_succ_of_le h)

theorem State.fetch_of_gt (s : State) (h : 0xFFF < s.pc.toNat + 1) : s.fetch = none :=
  if_neg (Nat.not_lt_of_le h)

/-- Settles O29: `I` is `pc`, so the two bytes fetched are the first two of the run stored. -/
theorem storesAreSeenByTheNextFetch : Obligations.StoresAreSeenByTheNextFetch := by
  intro x s t hx hpc h hexec
  have htpc : t.pc = s.i := by rw [eq_of_exec_storeRegs h hexec, hpc]
  rw [t.fetch_of_le (by rw [htpc]; omega), htpc, ← read_of_exec_storeRegs h hexec 0 (Fin.zero_le x),
    ← read_of_exec_storeRegs h hexec 1 hx]
  rfl

end Sys2Proof.Machine
end

section
/-! Reset, the loader, boot (70_reset_and_hazards.md R240 to R247). -/

namespace Sys2Proof.Machine

/-! ## What reset and the loader leave in the registers and in memory -/

theorem reg_of_v_eq_zero {s : State} (h : s.v = Vector.replicate 16 0x00#8) (x : Reg) : s.reg x = 0x00#8 := by
  rw [State.reg, h, Vector.get_eq_getElem, Vector.getElem_replicate]

theorem Memory.read_nil (a : Nat) : Memory.read [] a = Memory.unlisted a := rfl

theorem Memory.unlisted_above (a : Nat) (h : 80 ≤ a) : Memory.unlisted a = Params.memInit a :=
  if_neg (Nat.not_lt_of_le h)

/-- Settles O7: the memory list is empty, so every address reads as what it is unlisted. -/
theorem resetStateHoldsTheResetValues : Obligations.ResetStateHoldsTheResetValues := by
  refine ⟨reg_of_v_eq_zero rfl, rfl, rfl, rfl, rfl, rfl, rfl, rfl, rfl, fun a h => ?font, fun a h => ?above⟩
  case font => exact (Memory.read_nil a).trans (Memory.unlisted_font a h)
  case above => exact (Memory.read_nil a).trans (Memory.unlisted_above a h)

/-- Settles O8: reset is one record update, whose write of memory is the 80 bytes of the font. -/
theorem resetOperationSetsEveryElement : Obligations.ResetOperationSetsEveryElement := fun s =>
  ⟨reg_of_v_eq_zero s.resetCore_v, rfl, rfl, rfl, rfl, rfl, rfl, rfl, rfl, s.read_resetCore_font,
    s.read_resetCore_above, rfl, rfl, rfl, rfl, rfl, rfl, rfl⟩

/-- Settles O9: the load is one run of bytes from `0x200` on, or a failure when the run would pass memory. -/
theorem loaderPlacesTheImageOrFails : Obligations.LoaderPlacesTheImageOrFails := by
  refine fun s image => ⟨fun hfits => ?loads, fun hlong => ?fails, rfl⟩
  case loads =>
    obtain ⟨hlong, -⟩ | ⟨-, hload⟩ := s.loadProgram_spec image
    · omega
    have hrange : 0x200 + image.length ≤ Config.memSize := Nat.add_le_add_left hfits 0x200
    exact ⟨_, hload, .writeRun s _ _ hrange, fun k hk => Memory.read_writeRun_inside image s.mem _ k hrange hk⟩
  case fails =>
    obtain ⟨-, hload⟩ | ⟨hfits, -⟩ := s.loadProgram_spec image
    · exact hload
    · omega

/-! ## Boot -/

/-- Before the load, memory holds the font and above it `MEM_INIT`. -/
theorem read_resetCore_powerOn (params : Parameters) (memInit : Nat → Byte) (a : Nat) (ha : a < 4096) :
    (State.powerOn params memInit).resetCore.mem.read a = if h : a < 80 then params.font[a] else memInit a := by
  split
  case isTrue h => exact State.read_resetCore_font (State.powerOn params memInit) a h
  case isFalse h =>
    rw [State.read_resetCore_above _ a (Nat.not_lt.mp h), State.powerOn_mem,
      Memory.read_ofFn _ _ a (Nat.le_refl _) ha]

/-- Settles O10: the image is a run of bytes over the memory that power-on and reset made. -/
theorem bootLaysOutMemory : Obligations.BootLaysOutMemory := by
  intro params memInit image hfits
  obtain ⟨hlong, -⟩ | ⟨-, hload⟩ := (State.powerOn params memInit).resetCore.loadProgram_spec image
  · omega
  have hwf : (State.powerOn params memInit).resetCore.mem.wf :=
    Memory.wf_writeRun _ _ _ (State.powerOn_mem params memInit ▸ Memory.wf_ofFn _ _ (Nat.le_refl _))
  have hrange : 0x200 + image.length ≤ Config.memSize := Nat.add_le_add_left hfits 0x200
  refine ⟨_, hload, rfl, rfl, Memory.wf_writeRun _ _ _ hwf, rfl, rfl, fun a ha => ?_⟩
  by_cases himage : 0x200 ≤ a ∧ a < 0x200 + image.length
  case pos =>
    obtain ⟨k, rfl⟩ := Nat.exists_eq_add_of_le himage.1
    have hk : k < image.length := Nat.lt_of_add_lt_add_left himage.2
    rw [dif_neg (by omega), if_pos himage, Nat.add_sub_cancel_left, List.getD_eq_getElem _ _ hk]
    exact Memory.read_writeRun_inside image _ _ k hrange hk
  case neg =>
    rw [if_neg himage, ← read_resetCore_powerOn params memInit a ha]
    exact Memory.read_writeRun_outside image _ _ a hrange himage

end Sys2Proof.Machine
end

section
/-! The tick and the agents' turns: what each can do, said once, and the claims about whose turn it is
(00_scope.md R9, R10; 60_exceptions.md R203 to R212). -/

namespace Sys2Proof.Machine

/-! ## The tick, a case at a time -/

theorem State.pc_le_of_fetch {s : State} {w : Word} (h : s.fetch = some w) : s.pc.toNat + 1 ≤ 0xFFF :=
  Nat.le_of_lt_succ (Option.ite_none_right_eq_some.mp h).1

theorem tick_of_fetch_none {s : State} (hfetch : s.fetch = none) :
    tick s = .next (s.tickTimers.raise (.memoryFault .fetch s.pc.toNat) s.pc none) := by
  have hfetch : s.tickTimers.fetch = none := hfetch
  simp only [tick, hfetch, State.tickTimers_pc]

theorem tick_of_decode_error {s : State} {w : Word} {r : Reject} (hfetch : s.fetch = some w)
    (hdecode : decodeWord w = .error r) :
    tick s = .next (s.begun.raise (.decodeFault (fieldsOf w).op (fieldsOf w).addr) s.pc (some w)) := by
  have hfetch : s.tickTimers.fetch = some w := hfetch
  have hpc : s.tickTimers.advance.pc - 2 = s.pc := BitVec.add_sub_cancel ..
  simp only [tick, hfetch, decodeAndExec, hdecode, hpc]
  rfl

theorem tick_of_decode_ok {s : State} {w : Word} {i : Instr} (hfetch : s.fetch = some w)
    (hdecode : decodeWord w = .ok i) : tick s = exec i s.begun := by
  have hfetch : s.tickTimers.fetch = some w := hfetch
  simp only [tick, hfetch, decodeAndExec, hdecode]
  rfl

/-- `t` is what one tick makes of `s`: the fault of its fetch, that of its word, or the effect of its instruction. -/
inductive TickEffect (s : State) : State → Prop where
  | fetchFault (past : 0xFFF < s.pc.toNat + 1) :
    TickEffect s (s.tickTimers.raise (.memoryFault .fetch s.pc.toNat) s.pc none)
  | decodeFault {w : Word} {r : Reject} (fetched : s.fetch = some w) (rejected : decodeWord w = .error r) :
    TickEffect s (s.begun.raise (.decodeFault (fieldsOf w).op (fieldsOf w).addr) s.pc (some w))
  | executed {w : Word} {i : Instr} {t : State} (fetched : s.fetch = some w) (decoded : decodeWord w = .ok i)
    (effect : Effect i s.begun t) : TickEffect s t

theorem exists_tickEffect (s : State) : ∃ t, tick s = .next t ∧ TickEffect s t := by
  by_cases hpc : s.pc.toNat + 1 ≤ 0xFFF
  · have hfetch := s.fetch_of_le hpc
    cases hdecode : decodeWord (wordOfBytes (s.mem.read s.pc.toNat) (s.mem.read (s.pc.toNat + 1))) with
    | error r => exact ⟨_, tick_of_decode_error hfetch hdecode, .decodeFault hfetch hdecode⟩
    | ok i =>
      obtain ⟨t, hexec, heffect⟩ := exec_effect i s.begun
      exact ⟨t, (tick_of_decode_ok hfetch hdecode).trans hexec, .executed hfetch hdecode heffect⟩
  · have hpast := Nat.lt_of_not_le hpc
    exact ⟨_, tick_of_fetch_none (s.fetch_of_gt hpast), .fetchFault hpast⟩

theorem tickEffect_of_tick_eq_next {s t : State} (h : tick s = .next t) : TickEffect s t := by
  obtain ⟨u, hu, heffect⟩ := exists_tickEffect s
  obtain rfl := Host.Outcome.next.inj (h.symm.trans hu)
  exact heffect

theorem TickEffect.monitor_eq {s t : State} (h : TickEffect s t) : t.monitor = s.monitor := by
  cases h with
  | executed _ _ effect => exact effect.monitor_eq
  | _ => rfl

theorem TickEffect.params_eq {s t : State} (h : TickEffect s t) : t.params = s.params := by
  cases h with
  | executed _ _ effect => exact effect.params_eq
  | _ => rfl

theorem TickEffect.dt_eq {s t : State} (h : TickEffect s t)
    (hword : ∀ w x, s.fetch = some w → decodeWord w ≠ .ok (.ldDT x)) : t.dt = timerTick s.dt := by
  cases h with
  | executed fetched decoded effect =>
    exact effect.dt_eq fun x hi => hword _ x fetched (hi ▸ decoded)
  | _ => rfl

theorem TickEffect.st_eq {s t : State} (h : TickEffect s t)
    (hword : ∀ w x, s.fetch = some w → decodeWord w ≠ .ok (.ldST x)) : t.st = timerTick s.st := by
  cases h with
  | executed fetched decoded effect =>
    exact effect.st_eq fun x hi => hword _ x fetched (hi ▸ decoded)
  | _ => rfl

/-! ## The timers -/

theorem tick_dt_toNat {s t : State} (h : tick s = .next t)
    (hword : ∀ w x, s.fetch = some w → decodeWord w ≠ .ok (.ldDT x)) : t.dt.toNat = s.dt.toNat - 1 := by
  rw [(tickEffect_of_tick_eq_next h).dt_eq hword, timerTick_toNat]

theorem tick_st_toNat {s t : State} (h : tick s = .next t)
    (hword : ∀ w x, s.fetch = some w → decodeWord w ≠ .ok (.ldST x)) : t.st.toNat = s.st.toNat - 1 := by
  rw [(tickEffect_of_tick_eq_next h).st_eq hword, timerTick_toNat]

theorem eq_of_tick_eq_exec {s t u : State} {w : Word} {i : Instr} (h : tick s = .next t) (hfetch : s.fetch = some w)
    (hdecode : decodeWord w = .ok i) (hexec : exec i s.begun = .next u) : t = u :=
  Host.Outcome.next.inj (h.symm.trans ((tick_of_decode_ok hfetch hdecode).trans hexec))

/-- Settles O24: phase 1 decrements both timers whatever comes after it, and no other effect writes a timer. -/
theorem everyTickDecrementsTheTimers : Obligations.EveryTickDecrementsTheTimers := by
  refine fun s t h => ⟨fun w x hfetch hdecode => ?delay, tick_dt_toNat h, fun w x hfetch hdecode => ?sound,
    tick_st_toNat h⟩
  case delay => rw [eq_of_tick_eq_exec h hfetch hdecode (exec_ldDT x s.begun)]; rfl
  case sound => rw [eq_of_tick_eq_exec h hfetch hdecode (exec_ldST x s.begun)]; rfl

/-- Settles O25, by induction on the run: each of its ticks takes one. -/
theorem delayTimerCountsInstructions : Obligations.DelayTimerCountsInstructions := by
  intro k s t hrun
  induction hrun with
  | none s => rfl
  | @more k s t u w i _ word decoded meets ticked _ ih =>
    have hword : ∀ w' x, s.fetch = some w' → decodeWord w' ≠ .ok (.ldDT x) := by
      rintro w' x hfetch hdecode
      obtain rfl := Option.some.inj (word.symm.trans hfetch)
      exact meets x (Except.ok.inj (decoded.symm.trans hdecode))
    rw [ih, tick_dt_toNat ticked hword]
    omega

/-! ## The step of a ready core -/

theorem Ready.step_of_go {s t : State} (h : Ready s) (hgo : boundary s = .go t) : step s = tick t := by
  rw [step_core s h.notEnded h.coreNext, coreTurn_go s t h.notHalted hgo]

theorem Ready.step_of_hold {s t : State} (h : Ready s) (hhold : boundary s = .hold t) : step s = .next t := by
  rw [step_core s h.notEnded h.coreNext, coreTurn_hold s t h.notHalted hhold]

theorem Ready.step_of_off {s : State} (h : Ready s) (hoff : s.monitor.enabled = false) : step s = tick s :=
  h.step_of_go (boundary_off s hoff)

/-- Settles O11: the step is the tick, which executes the word it fetches. -/
theorem stepRunsTheDecodedInstruction : Obligations.StepRunsTheDecodedInstruction := fun s _ h hoff hpc hdecode =>
  (h.step_of_off hoff).trans (tick_of_decode_ok (s.fetch_of_le hpc) hdecode)

theorem State.raise_running (s : State) (c : FaultCause) (p : Word) (w : Option Word) (h : s.halted = false) :
    s.raise c p w = { s with halted := true, fault := some ⟨c, p, w⟩ } := by
  simp only [State.raise, h, Bool.false_eq_true, if_false]

/-- Settles O12: the tick ends at its fetch, after the timers and before the advance. -/
theorem fetchPastMemoryFaults : Obligations.FetchPastMemoryFaults := by
  intro s h hoff hpc
  rw [h.step_of_off hoff, tick_of_fetch_none (s.fetch_of_gt hpc), s.tickTimers.raise_running _ _ _ h.notHalted]
  rfl

/-- Settles O13: the tick ends at its decode, after the timers and the advance. -/
theorem illegalWordFaults : Obligations.IllegalWordFaults := by
  intro s r h hoff hpc w hdecode
  rw [h.step_of_off hoff, tick_of_decode_error (s.fetch_of_le hpc) hdecode, s.begun.raise_running _ _ _ h.notHalted]
  rfl

/-! ## The other agents' turns, and a halted core -/

/-- A core that halted drops the turns of the input agent and of the operator. -/
theorem takeTurn_of_halted {a : Turn} {s : State} (h : s.halted = true) (hcore : a ≠ .core) (hreset : a ≠ .reset)
    (hclose : a ≠ .close) : takeTurn a s = .next s := by
  have hdropped (u : State) : s.unlessHalted u = s := if_pos h
  cases a with
  | core => exact absurd rfl hcore
  | key code => exact congrArg _ (hdropped _)
  | toggleDebug => exact congrArg _ (hdropped _)
  | line c => exact congrArg _ (hdropped _)
  | reset => exact absurd rfl hreset
  | close => exact absurd rfl hclose

/-- Of the turns that answer a state, only the host's reset clears the latch. -/
theorem takeTurn_eq_next_of_halted {a : Turn} {s t : State} (h : s.halted = true) (hturn : takeTurn a s = .next t) :
    a = .reset ∨ t.halted = true := by
  cases a with
  | core => cases (coreTurn_halted s h).symm.trans hturn
  | reset => exact .inl rfl
  | close => exact .inr (Host.Outcome.next.inj hturn ▸ h)
  | key | toggleDebug | line =>
    have hkept := (takeTurn_of_halted h (by simp) (by simp) (by simp)).symm.trans hturn
    exact .inr (Host.Outcome.next.inj hkept ▸ h)

/-- A step that answers a state is the turn of the core, or the one the schedule names. -/
theorem step_eq_next_cases {s t : State} (h : step s = .next t) :
    coreTurn s = .next t ∨
    ∃ a rest, s.schedule = a :: rest ∧ takeTurn a { s with schedule := rest } = .next t := by
  have hended : s.ended = false := by
    by_contra hended
    cases (step_ended s (Bool.eq_true_of_not_eq_false hended)).symm.trans h
  cases hschedule : s.schedule with
  | nil => exact .inl ((step_core s hended hschedule).symm.trans h)
  | cons a rest => exact .inr ⟨a, rest, rfl, (step_scheduled s a rest hended hschedule).symm.trans h⟩

/-- Settles O14: the core's turn answers the fault, and every other turn of the statement is dropped. -/
theorem haltedCoreIsFrozen : Obligations.HaltedCoreIsFrozen := by
  refine fun s hhalted hended => ⟨fun hschedule => ?core, fun a rest hschedule hreset hclose => ?scheduled⟩
  case core => rw [step_core s hended hschedule, coreTurn_halted s hhalted]
  case scheduled =>
    rw [step_scheduled s a rest hended hschedule]
    split
    case isTrue hcore => subst hcore; exact coreTurn_halted { s with schedule := rest } hhalted
    case isFalse hcore => exact takeTurn_of_halted hhalted hcore hreset hclose

/-- Settles O15: the turn taken was scheduled, and of the scheduled turns only the host's reset clears the latch. -/
theorem onlyResetLeavesHalted : Obligations.OnlyResetLeavesHalted := by
  intro s t hhalted hstep hrun
  obtain hcore | ⟨a, rest, hschedule, hturn⟩ := step_eq_next_cases hstep
  · cases (coreTurn_halted s hhalted).symm.trans hcore
  obtain rfl | hkept := takeTurn_eq_next_of_halted (s := { s with schedule := rest }) hhalted hturn
  · obtain rfl := Host.Outcome.next.inj hturn
    exact ⟨rest, hschedule, rfl, rfl, rfl⟩
  · cases hrun.symm.trans hkept

/-- Settles O16: a step looks at the mark first, and the host's turn writes nothing else. -/
theorem endedRunHasNoStep : Obligations.EndedRunHasNoStep :=
  ⟨step_ended, fun s rest hended hschedule => step_scheduled s .close rest hended hschedule⟩

/-- Settles O17: a running core takes the key, and a code of `KEY_W` bits is its own remainder. -/
theorem inputAgentWritesOnlyTheKeyBuffer : Obligations.InputAgentWritesOnlyTheKeyBuffer := by
  intro s code rest hended hrun hschedule
  have hstep : step s = .next { s with key := code % 2 ^ s.params.keyWidth, schedule := rest } := by
    rw [step_scheduled s _ rest hended hschedule]
    exact congrArg _ (if_neg (Bool.eq_false_iff.mp hrun))
  exact ⟨hstep, fun hcode => by rw [hstep, Nat.mod_eq_of_lt hcode]⟩

end Sys2Proof.Machine
end

section
/-! The debug monitor at a boundary (60_exceptions.md R218 to R226). -/

namespace Sys2Proof.Machine

/-! ## The boundary, a case at a time -/

/-- The state whose monitor prompts, as it waits for a line: Armed, and else as it was. -/
def State.armed (s : State) : State := { s with monitor := { s.monitor with mode := .armed } }

theorem prompt_of_no_line {s : State} (hline : s.monitor.console = []) : prompt s = .hold s := by
  simp only [prompt, hline]

theorem prompt_of_line {s : State} {c : Command} {rest : List Command} (hline : s.monitor.console = c :: rest) :
    prompt s = obey c { s with monitor := { s.monitor with console := rest } } := by
  simp only [prompt, hline]

/-- With no line waiting the monitor holds the core. -/
theorem Prompting.boundary_of_no_line {s : State} (h : Prompting s) (hline : s.monitor.console = []) :
    boundary s = .hold s.armed := by
  obtain ⟨henabled, hmode⟩ := h
  exact (boundary_prompt s henabled hmode).trans (prompt_of_no_line (s := s.armed) hline)

/-- With a line waiting the monitor takes it and obeys. -/
theorem Prompting.boundary_of_line {s : State} {c : Command} {rest : List Command} (h : Prompting s)
    (hline : s.monitor.console = c :: rest) : boundary s = obey c (s.lineTaken rest) := by
  obtain ⟨henabled, hmode⟩ := h
  exact (boundary_prompt s henabled hmode).trans (prompt_of_line (s := s.armed) hline)

/-- A boundary lets the tick run, waits for a line, or obeys one. -/
theorem boundary_cases (s : State) :
    boundary s = .go s ∨ boundary s = .hold s.armed ∨ ∃ c rest, boundary s = obey c (s.lineTaken rest) := by
  by_cases h : Prompting s
  case neg =>
    left
    cases henabled : s.monitor.enabled with
    | false => exact boundary_off s henabled
    | true =>
      have hquiet : ¬ (s.monitor.mode = .armed ∨ s.monitorHit = true) := fun hmode => h ⟨henabled, hmode⟩
      obtain ⟨hmode, hhit⟩ := not_or.mp hquiet
      cases hm : s.monitor.mode with
      | armed => exact absurd hm hmode
      | ignoring => exact boundary_ignoring s hm (Bool.eq_false_of_not_eq_true hhit)
  case pos =>
    right
    cases hline : s.monitor.console with
    | nil => exact .inl (h.boundary_of_no_line hline)
    | cons c rest => exact .inr ⟨c, rest, h.boundary_of_line hline⟩

/-- The hit test in full (60_exceptions.md R220). -/
theorem State.monitorHit_iff (s : State) :
    s.monitorHit = true ↔
      (∃ e ∈ s.monitor.breakpoints, e.value = s.pc) ∨
      (s.pc.toNat + 1 ≤ 0xFFF ∧
        ∃ e ∈ s.monitor.watchpoints, e.value = wordOfBytes (s.mem.read s.pc.toNat) (s.mem.read (s.pc.toNat + 1))) := by
  by_cases hpc : s.pc.toNat + 1 ≤ 0xFFF
  · simp only [monitorHit, s.fetch_of_le hpc, listed, Bool.or_eq_true, List.any_eq_true, beq_iff_eq, hpc, true_and]
  · simp only [monitorHit, s.fetch_of_gt (Nat.lt_of_not_le hpc), listed, Bool.or_false, List.any_eq_true, beq_iff_eq,
      hpc, false_and, or_false]

/-! ## Registration -/

theorem Monitor.addBreakpoint_of_room (m : Monitor) (a : Word) (h : m.breakpoints.length < 255) :
    m.addBreakpoint a = { m with breakpoints := m.breakpoints ++ [⟨m.breakpoints.length, a⟩] } := by
  obtain ⟨hfull, -⟩ | ⟨-, hreg⟩ := register_spec m.breakpoints a
  · omega
  · rw [Monitor.addBreakpoint, hreg]

theorem Monitor.addBreakpoint_of_full (m : Monitor) (a : Word) (h : 255 ≤ m.breakpoints.length) :
    m.addBreakpoint a = { m with reports := m.reports ++ [.breakpointsFull a] } := by
  obtain ⟨-, hreg⟩ | ⟨hroom, -⟩ := register_spec m.breakpoints a
  · rw [Monitor.addBreakpoint, hreg]
  · omega

theorem Monitor.addWatchpoint_of_room (m : Monitor) (w : Word) (h : m.watchpoints.length < 255) :
    m.addWatchpoint w = { m with watchpoints := m.watchpoints ++ [⟨m.watchpoints.length, w⟩] } := by
  obtain ⟨hfull, -⟩ | ⟨-, hreg⟩ := register_spec m.watchpoints w
  · omega
  · rw [Monitor.addWatchpoint, hreg]

theorem Monitor.addWatchpoint_of_full (m : Monitor) (w : Word) (h : 255 ≤ m.watchpoints.length) :
    m.addWatchpoint w = { m with reports := m.reports ++ [.watchpointsFull w] } := by
  obtain ⟨-, hreg⟩ | ⟨hroom, -⟩ := register_spec m.watchpoints w
  · rw [Monitor.addWatchpoint, hreg]
  · omega

theorem Monitor.addBreakpoint_console (m : Monitor) (a : Word) : (m.addBreakpoint a).console = m.console := by
  unfold Monitor.addBreakpoint; split <;> rfl

theorem Monitor.addWatchpoint_console (m : Monitor) (w : Word) : (m.addWatchpoint w).console = m.console := by
  unfold Monitor.addWatchpoint; split <;> rfl

/-! ## Commands that hold -/

theorem Ready.step_of_line_hold {s t : State} {c : Command} {rest : List Command} (h : Ready s) (hp : Prompting s)
    (hline : s.monitor.console = c :: rest) (hobey : obey c (s.lineTaken rest) = .hold t) : step s = .next t :=
  h.step_of_hold ((hp.boundary_of_line hline).trans hobey)

theorem Ready.step_of_line_go {s t : State} {c : Command} {rest : List Command} (h : Ready s) (hp : Prompting s)
    (hline : s.monitor.console = c :: rest) (hobey : obey c (s.lineTaken rest) = .go t) : step s = tick t :=
  h.step_of_go ((hp.boundary_of_line hline).trans hobey)

/-- Settles O54: without a line the monitor is Armed and nothing else; the other commands answer a hold that writes the
monitor at most. -/
theorem heldCoreStandsStill : Obligations.HeldCoreStandsStill := by
  refine fun s h hp => ⟨fun hline => ?noLine, fun c rest hline hnext hrun hreset hquit hgoto => ?line⟩
  case noLine => exact ⟨_, h.step_of_hold (hp.boundary_of_no_line hline), rfl⟩
  case line =>
    cases c with
    | next => exact absurd rfl hnext
    | run => exact absurd rfl hrun
    | reset => exact absurd rfl hreset
    | quit => exact absurd rfl hquit
    | goto a => exact absurd rfl (hgoto a)
    | examine | dump | other => exact ⟨_, h.step_of_line_hold hp hline rfl, rfl, rfl⟩
    | breakpoint => exact ⟨_, h.step_of_line_hold hp hline rfl, rfl, Monitor.addBreakpoint_console ..⟩
    | watchpoint => exact ⟨_, h.step_of_line_hold hp hline rfl, rfl, Monitor.addWatchpoint_console ..⟩

/-- Settles O55: either condition is a hit, and a hit makes the monitor prompt in any mode. -/
theorem hitForcesAPrompt : Obligations.HitForcesAPrompt := fun s h henabled hline hhit =>
  have hp : Prompting s := ⟨henabled, .inr (s.monitorHit_iff.mpr hhit)⟩
  ⟨_, h.step_of_hold (hp.boundary_of_no_line hline), rfl, rfl⟩

theorem word_ofNat_mod (a : Nat) : BitVec.ofNat 16 (a % 65536) = BitVec.ofNat 16 a := by
  refine BitVec.eq_of_toNat_eq ?_
  rw [BitVec.toNat_ofNat, BitVec.toNat_ofNat, Nat.mod_mod]

/-- Settles O56: each command's own answer, on the state whose line was taken. -/
theorem monitorCommandsActOnTheCore : Obligations.MonitorCommandsActOnTheCore := by
  refine fun s rest h hp => ⟨fun a hline => ?goto, fun hline => ?next, fun hline => ?run, fun hline => ?quit⟩
  case goto => rw [word_ofNat_mod]; exact h.step_of_line_hold hp hline rfl
  case next => exact h.step_of_line_go hp hline rfl
  case run => exact h.step_of_line_go hp hline rfl
  case quit => exact h.step_of_line_hold hp hline rfl

/-- Settles O57: the tick keeps the monitor, which was Armed when the line was taken. -/
theorem nextPromptsAgain : Obligations.NextPromptsAgain := by
  intro s t rest h hp hline hstep
  have htick : tick (s.lineTaken rest) = .next t := (h.step_of_line_go hp hline rfl).symm.trans hstep
  have hmonitor : t.monitor = (s.lineTaken rest).monitor := (tickEffect_of_tick_eq_next htick).monitor_eq
  obtain ⟨henabled, -⟩ := hp
  exact ⟨⟨(congrArg Monitor.enabled hmonitor).trans henabled, .inl (congrArg Monitor.mode hmonitor)⟩,
    congrArg Monitor.console hmonitor, htick⟩

/-- Settles O58: `R` is the clear event and then the reset operation, which leaves the monitor and memory above the
font. -/
theorem monitorResetRestartsTheProgram : Obligations.MonitorResetRestartsTheProgram := by
  intro s rest h hp hline
  refine ⟨_, h.step_of_line_hold hp hline rfl, rfl, rfl, rfl, rfl, reg_of_v_eq_zero rfl, rfl, rfl, rfl, rfl, rfl, rfl,
    rfl, ?font, rfl, rfl, rfl, ?above⟩
  case font => exact State.read_resetCore_font ((s.lineTaken rest).emit [.clear])
  case above => exact State.read_resetCore_above ((s.lineTaken rest).emit [.clear])

/-- Settles O59: both lists register alike, and the state is else the one whose line was taken. -/
theorem fullListsRefuse : Obligations.FullListsRefuse := by
  refine fun s rest w h hp => ⟨fun hline => ?breakpoint, fun hline => ?watchpoint⟩
  case breakpoint =>
    refine ⟨_, h.step_of_line_hold hp hline rfl, rfl, Monitor.addBreakpoint_watchpoints .., fun hroom => ?_,
      fun hfull => ?_⟩
    · rw [(s.lineTaken rest).monitor.addBreakpoint_of_room w hroom]
      exact ⟨⟨_, rfl, rfl⟩, rfl⟩
    · rw [(s.lineTaken rest).monitor.addBreakpoint_of_full w hfull]
      exact ⟨rfl, rfl⟩
  case watchpoint =>
    refine ⟨_, h.step_of_line_hold hp hline rfl, rfl, Monitor.addWatchpoint_breakpoints .., fun hroom => ?_,
      fun hfull => ?_⟩
    · rw [(s.lineTaken rest).monitor.addWatchpoint_of_room w hroom]
      exact ⟨⟨_, rfl, rfl⟩, rfl⟩
    · rw [(s.lineTaken rest).monitor.addWatchpoint_of_full w hfull]
      exact ⟨rfl, rfl⟩

/-! ## A monitor that does not prompt -/

/-- The tick does the same whatever the monitor holds: a fault does, and an instruction does. -/
theorem tick_withMonitor {s t : State} (m : Monitor) (h : tick s = .next t) :
    tick { s with monitor := m } = .next { t with monitor := m } := by
  cases tickEffect_of_tick_eq_next h with
  | fetchFault past => exact tick_of_fetch_none (State.fetch_of_gt { s with monitor := m } past)
  | decodeFault fetched rejected => exact tick_of_decode_error (s := { s with monitor := m }) fetched rejected
  | @executed w i _ fetched decoded effect =>
    rw [tick_of_decode_ok (s := { s with monitor := m }) fetched decoded]
    exact monitorIsInvisibleToInstructions i s.begun t m ((tick_of_decode_ok fetched decoded).symm.trans h)

/-- Settles O60: both steps are the tick, which does not see the monitor. -/
theorem ignoringMonitorChangesNothing : Obligations.IgnoringMonitorChangesNothing := by
  intro s off h hmode hhit hoff
  obtain ⟨t, htick, -⟩ := exists_tickEffect s
  have hready : Ready { s with monitor := off } := ⟨h.notEnded, h.notHalted, h.coreNext⟩
  refine ⟨t, (h.step_of_go (boundary_ignoring s hmode hhit)).trans htick, ?_⟩
  exact (hready.step_of_off hoff).trans (tick_withMonitor off htick)

end Sys2Proof.Machine
end

section
/-! What every step keeps (10_state.md, 20_memory.md R50 to R57, 60_exceptions.md R203 to R205). -/

namespace Sys2Proof.Machine

/-! ## The machine invariant under each shared operation -/

/-- Settles O18: nothing is listed, recorded, emitted or registered, and the defaults fit `KEY_W`. -/
theorem resetMeetsTheInvariant : Obligations.ResetMeetsTheInvariant where
  memory := ⟨.nil, nofun⟩
  latch := rfl
  word := nofun
  offence := nofun
  points := nofun
  key := by decide
  empty := by decide
  breakpoints := ⟨by decide, rfl⟩
  watchpoints := ⟨by decide, rfl⟩

theorem ListInv.append_of_room {l : List ListEntry} (h : ListInv l) (w : Word) (hroom : l.length < 255) :
    ListInv (l ++ [⟨l.length, w⟩]) where
  capacity := by rw [List.length_append]; exact hroom
  numbered := by rw [List.map_append, h.numbered, List.length_append]; exact List.range_succ.symm

theorem ListInv.addBreakpoint {m : Monitor} (h : ListInv m.breakpoints) (a : Word) :
    ListInv (m.addBreakpoint a).breakpoints := by
  obtain heq | ⟨hroom, heq⟩ := m.addBreakpoint_cases a
  · exact heq ▸ h
  · exact heq ▸ h.append_of_room a hroom

theorem ListInv.addWatchpoint {m : Monitor} (h : ListInv m.watchpoints) (w : Word) :
    ListInv (m.addWatchpoint w).watchpoints := by
  obtain heq | ⟨hroom, heq⟩ := m.addWatchpoint_cases w
  · exact heq ▸ h
  · exact heq ▸ h.append_of_room w hroom

/-- A fault keeps the invariant when it is recorded with its word, or is a fetch fault, and its address faults. -/
theorem Inv.raise {s : State} (hs : Inv s) (c : FaultCause) (pc0 : Word) (word : Option Word)
    (hword : word = none ↔ ∃ a, c = .memoryFault .fetch a)
    (hoffence : ∀ k a, c = .memoryFault k a → 0xFFF ≤ a ∧ (k ≠ .fetch → 0xFFF < a)) : Inv (s.raise c pc0 word) := by
  by_cases hrun : s.halted = true
  case pos => exact (s.raise_of_halted c pc0 word hrun).symm ▸ hs
  case neg =>
    have hfault : (s.raise c pc0 word).fault = some ⟨c, pc0, word⟩ := if_neg hrun
    have hrecord {r : FaultRecord} (hr : (s.raise c pc0 word).fault = some r) : ⟨c, pc0, word⟩ = r :=
      Option.some.inj (hfault.symm.trans hr)
    exact { hs with
      latch := by rw [hfault]; rfl
      word := fun r hr => hrecord hr ▸ hword
      offence := fun r k a hr hcause => by
        obtain rfl := hrecord hr
        exact hoffence k a hcause }

theorem Inv.emit {s : State} (hs : Inv s) {es : List DisplayEvent} (hes : ∀ e ∈ es, e.inBounds) : Inv (s.emit es) :=
  { hs with points := fun e he => (List.mem_append.mp he).elim (hs.points e) (hes e) }

theorem Inv.writeRun {s : State} (hs : Inv s) (a : Nat) (vs : List Byte) :
    Inv { s with mem := s.mem.writeRun a vs } :=
  { hs with memory := Memory.wf_writeRun vs s.mem a hs.memory }

theorem Inv.resetCore {s : State} (hs : Inv s) : Inv s.resetCore :=
  { hs with
    memory := Memory.wf_writeRun _ _ _ hs.memory
    latch := rfl
    word := nofun
    offence := nofun
    key := hs.empty.2 }

theorem Inv.pressKey {s : State} (hs : Inv s) (code : Nat) : Inv (s.pressKey code) :=
  { hs with key := Nat.mod_lt _ (Nat.two_pow_pos _) }

theorem Inv.setMonitor {s : State} (hs : Inv s) {m : Monitor} (hb : ListInv m.breakpoints)
    (hw : ListInv m.watchpoints) : Inv { s with monitor := m } :=
  { hs with breakpoints := hb, watchpoints := hw }

/-! ## The invariant under an instruction and under the tick -/

theorem Effect.inv {i : Instr} {s t : State} (h : Effect i s t) (hs : Inv s) : Inv t := by
  cases h with
  | fault hc =>
    refine hs.raise _ _ _ ⟨nofun, fun ⟨a, ha⟩ => ?_⟩ fun k a ha => ?_
    · exact absurd rfl (past_of_faultOf_eq_memoryFault (hc.trans (congrArg some ha))).1
    · obtain ⟨-, hpast⟩ := past_of_faultOf_eq_memoryFault (hc.trans (congrArg some ha))
      exact ⟨hpast.le, fun _ => hpast⟩
  | emit _ bounded => exact hs.emit bounded
  | store => exact hs.writeRun _ _
  | _ => exact { hs with memory := hs.memory }

theorem Inv.begun {s : State} (hs : Inv s) : Inv s.begun := { hs with memory := hs.memory }

theorem Inv.tickTimers {s : State} (hs : Inv s) : Inv s.tickTimers := { hs with memory := hs.memory }

theorem TickEffect.inv {s t : State} (h : TickEffect s t) (hs : Inv s) : Inv t := by
  cases h with
  | fetchFault past =>
    refine hs.tickTimers.raise _ _ _ ⟨fun _ => ⟨_, rfl⟩, fun _ => rfl⟩ fun k a ha => ?_
    cases ha
    exact ⟨Nat.le_of_lt_succ past, fun hk => absurd rfl hk⟩
  | decodeFault => exact hs.begun.raise _ _ _ ⟨nofun, nofun⟩ nofun
  | executed _ _ effect => exact effect.inv hs.begun

/-! ## The invariant under every agent's turn -/

/-- `t` meets the invariant when `s` does, and is the same machine: its parameters are those of `s`. -/
structure Kept (s t : State) : Prop where
  inv : Inv s → Inv t
  params : t.params = s.params

theorem Kept.refl (s : State) : Kept s s := ⟨id, rfl⟩

theorem Kept.trans {s t u : State} (h : Kept s t) (h' : Kept t u) : Kept s u :=
  ⟨fun hs => h'.inv (h.inv hs), h'.params.trans h.params⟩

/-- The state a boundary ends with, whether the tick follows or not. -/
def Gate.state : Gate → State
  | .hold s => s
  | .go s => s

theorem obey_kept (c : Command) (s : State) : Kept s (obey c s).state := by
  cases c with
  | goto => exact ⟨fun hs => { hs with memory := hs.memory }, rfl⟩
  | breakpoint a =>
    refine ⟨fun hs => hs.setMonitor (hs.breakpoints.addBreakpoint a) ?_, rfl⟩
    exact (s.monitor.addBreakpoint_watchpoints a).symm ▸ hs.watchpoints
  | watchpoint w =>
    refine ⟨fun hs => hs.setMonitor ?_ (hs.watchpoints.addWatchpoint w), rfl⟩
    exact (s.monitor.addWatchpoint_breakpoints w).symm ▸ hs.breakpoints
  | run => exact ⟨fun hs => hs.setMonitor hs.breakpoints hs.watchpoints, rfl⟩
  | reset => exact ⟨fun hs => (hs.emit (by simp [DisplayEvent.inBounds])).resetCore, rfl⟩
  | quit => exact ⟨fun hs => { hs with memory := hs.memory }, rfl⟩
  | next | examine | dump | other => exact .refl s

theorem boundary_kept (s : State) : Kept s (boundary s).state := by
  obtain h | h | ⟨c, rest, h⟩ := boundary_cases s <;> rw [h]
  · exact .refl s
  · exact ⟨fun hs => hs.setMonitor hs.breakpoints hs.watchpoints, rfl⟩
  · have htaken : Kept s (s.lineTaken rest) := ⟨fun hs => hs.setMonitor hs.breakpoints hs.watchpoints, rfl⟩
    exact htaken.trans (obey_kept c (s.lineTaken rest))

theorem tick_kept {s t : State} (h : tick s = .next t) : Kept s t :=
  have heffect := tickEffect_of_tick_eq_next h
  ⟨heffect.inv, heffect.params_eq⟩

theorem coreTurn_kept {s t : State} (h : coreTurn s = .next t) : Kept s t := by
  by_cases hrun : s.halted = true
  case pos => cases (coreTurn_halted s hrun).symm.trans h
  case neg =>
    have hrun := Bool.eq_false_of_not_eq_true hrun
    cases hgate : boundary s with
    | hold u =>
      obtain rfl := Host.Outcome.next.inj ((coreTurn_hold s u hrun hgate).symm.trans h)
      exact (hgate ▸ boundary_kept s : Kept s (Gate.hold u).state)
    | go u =>
      have htick := (coreTurn_go s u hrun hgate).symm.trans h
      exact (hgate ▸ boundary_kept s : Kept s (Gate.go u).state).trans (tick_kept htick)

theorem Kept.unlessHalted {s t : State} (h : Kept s t) : Kept s (s.unlessHalted t) := by
  unfold State.unlessHalted
  split
  · exact .refl s
  · exact h

theorem takeTurn_kept {a : Turn} {s t : State} (h : takeTurn a s = .next t) : Kept s t := by
  cases a with
  | core => exact coreTurn_kept h
  | key code => exact Host.Outcome.next.inj h ▸ Kept.unlessHalted ⟨fun hs => hs.pressKey code, rfl⟩
  | toggleDebug | line =>
    exact Host.Outcome.next.inj h ▸
      Kept.unlessHalted ⟨fun hs => hs.setMonitor hs.breakpoints hs.watchpoints, rfl⟩
  | reset => exact Host.Outcome.next.inj h ▸ ⟨fun hs => hs.resetCore, rfl⟩
  | close => exact Host.Outcome.next.inj h ▸ ⟨fun hs => { hs with memory := hs.memory }, rfl⟩

/-- Settles O19: a step is a turn, and every turn is made of operations that keep the invariant. -/
theorem everyStepKeepsTheInvariant : Obligations.EveryStepKeepsTheInvariant := by
  intro s t hs hstep
  have hkept : Kept s t := by
    obtain hcore | ⟨a, rest, -, hturn⟩ := step_eq_next_cases hstep
    · exact coreTurn_kept hcore
    · have htaken : Kept s { s with schedule := rest } := ⟨fun hs => { hs with memory := hs.memory }, rfl⟩
      exact htaken.trans (takeTurn_kept hturn)
  exact ⟨hkept.inv hs, hkept.params⟩

/-! ## The bound on `pc` -/

/-- Settles O20: `pc` is `0x200` and no entry is in use. -/
theorem resetMeetsThePcBound : Obligations.ResetMeetsThePcBound := ⟨by decide, nofun⟩

theorem word_add_two_toNat_le {w : Word} {n : Nat} (h : w.toNat ≤ n) : (w + 2).toNat ≤ n + 2 := by
  have htwo : (2 : Word).toNat = 2 := rfl
  rw [BitVec.toNat_add, htwo]
  omega

/-- An instruction whose advanced `pc` and return addresses are at most `0x1000` keeps the bound: a transfer goes to an
operand, to a return address, or 2 further. -/
theorem Effect.pcBounded {i : Instr} {s t : State} (h : Effect i s t) (hpc : s.pc.toNat ≤ 0x1000)
    (hentries : ∀ k : Fin 16, k.val < s.sp.val → (s.stack.get k).toNat ≤ 0x1000) : PcBounded t := by
  cases h with
  | @ret k _ newest =>
    refine ⟨(hentries k (by omega)).trans (by decide), fun j hj => hentries j ?_⟩
    have hj : j.val < k.val := hj
    omega
  | @call addr stack sp _ counted pushed =>
    refine ⟨zextAddr_toNat_le addr, fun k hk => ?_⟩
    have hk : k.val < sp.val := hk
    change (stack.get k).toNat ≤ 0x1000
    rw [pushed k]
    split
    case isTrue => exact hpc
    case isFalse hne => exact hentries k (by omega)
  | jump _ bounded => exact ⟨bounded, hentries⟩
  | @skip c =>
    refine ⟨?_, hentries⟩
    rw [State.skipIf_pc]
    split
    case isTrue => exact (word_add_two_toNat_le hpc).trans (by decide)
    case isFalse => exact hpc.trans (by decide)
  | _ => exact ⟨hpc.trans (by decide), hentries⟩

theorem State.begun_pc_le {s : State} {w : Word} (h : s.fetch = some w) : s.begun.pc.toNat ≤ 0x1000 :=
  word_add_two_toNat_le (Nat.le_of_succ_le_succ (State.pc_le_of_fetch h))

/-- Settles O21: a word is fetched from at most `0xFFE`, so the advanced `pc`, which `CALL` pushes, is at most
`0x1000`. -/
theorem everyTickKeepsThePcBound : Obligations.EveryTickKeepsThePcBound := by
  intro s t hs htick
  cases tickEffect_of_tick_eq_next htick with
  | fetchFault => exact ⟨hs.pc, hs.entries⟩
  | decodeFault fetched => exact ⟨(State.begun_pc_le fetched).trans (by decide), hs.entries⟩
  | executed fetched _ effect => exact effect.pcBounded (State.begun_pc_le fetched) hs.entries

end Sys2Proof.Machine
end
